-- ==== Sys2Proof/Word.lean ====
section
/-! DEFINITION. The word types of CORE. Every value of CORE is unsigned (00_scope.md section 5). -/

namespace Sys2Proof

/-- One byte: a V register (R10), a timer (R17), a memory cell (R22), an immediate `kk` (R46). -/
abbrev Byte := BitVec 8

/-- Sixteen bits: an opcode (R45), I (R13), PC (R14), a stack entry (R16). -/
abbrev Word := BitVec 16

/-- Four bits: a register index `x` or `y`, the immediate `n` (R46), a key code (R19). -/
abbrev Nibble := BitVec 4

/-- The 12-bit address immediate `nnn` (R46). -/
abbrev Addr12 := BitVec 12

end Sys2Proof
end

