-- ==== Sys2Proof/Syntax.lean ====
section
/-! DEFINITION. The 34 instructions of 30_encoding.md R52, one constructor per row of
spec/opcode_table.json, in the table's order. The operand types carry the field widths of R46. -/

namespace Sys2Proof

/-- A decoded instruction with its operands (R51, R52). -/
inductive Instr where
  /-- 00E0 `CLS` (R112). -/
  | cls
  /-- 00EE `RET` (R67). -/
  | ret
  /-- 1nnn `JP nnn` (R65). -/
  | jp (nnn : Addr12)
  /-- 2nnn `CALL nnn` (R66). -/
  | call (nnn : Addr12)
  /-- 3xkk `SE Vx, kk` (R69). -/
  | seImm (x : Nibble) (kk : Byte)
  /-- 4xkk `SNE Vx, kk` (R70). -/
  | sneImm (x : Nibble) (kk : Byte)
  /-- 5xy0 `SE Vx, Vy` (R71). -/
  | seReg (x y : Nibble)
  /-- 6xkk `LD Vx, kk` (R80). -/
  | ldImm (x : Nibble) (kk : Byte)
  /-- 7xkk `ADD Vx, kk` (R81). -/
  | addImm (x : Nibble) (kk : Byte)
  /-- 8xy0 `LD Vx, Vy` (R82). -/
  | ldReg (x y : Nibble)
  /-- 8xy1 `OR Vx, Vy` (R83). -/
  | orReg (x y : Nibble)
  /-- 8xy2 `AND Vx, Vy` (R84). -/
  | andReg (x y : Nibble)
  /-- 8xy3 `XOR Vx, Vy` (R85). -/
  | xorReg (x y : Nibble)
  /-- 8xy4 `ADD Vx, Vy` (R87). -/
  | addReg (x y : Nibble)
  /-- 8xy5 `SUB Vx, Vy` (R88). -/
  | subReg (x y : Nibble)
  /-- 8xy6 `SHR Vx` (R89); `y` is decoded and ignored (R49). -/
  | shr (x y : Nibble)
  /-- 8xy7 `SUBN Vx, Vy` (R90). -/
  | subnReg (x y : Nibble)
  /-- 8xyE `SHL Vx` (R91); `y` is decoded and ignored (R49). -/
  | shl (x y : Nibble)
  /-- 9xy0 `SNE Vx, Vy` (R72). -/
  | sneReg (x y : Nibble)
  /-- Annn `LD I, nnn` (R100). -/
  | ldI (nnn : Addr12)
  /-- Bnnn `JP V0, nnn` (R68). -/
  | jpV0 (nnn : Addr12)
  /-- Cxkk `RND Vx, kk` (R138). -/
  | rnd (x : Nibble) (kk : Byte)
  /-- Dxyn `DRW Vx, Vy, n` (R113). -/
  | drw (x y n : Nibble)
  /-- Ex9E `SKP Vx` (R122). -/
  | skp (x : Nibble)
  /-- ExA1 `SKNP Vx` (R123). -/
  | sknp (x : Nibble)
  /-- Fx07 `LD Vx, DT` (R132). -/
  | ldVxDt (x : Nibble)
  /-- Fx0A `LD Vx, K` (R124, R125). -/
  | ldVxK (x : Nibble)
  /-- Fx15 `LD DT, Vx` (R133). -/
  | ldDtVx (x : Nibble)
  /-- Fx18 `LD ST, Vx` (R134). -/
  | ldStVx (x : Nibble)
  /-- Fx1E `ADD I, Vx` (R101). -/
  | addI (x : Nibble)
  /-- Fx29 `LD F, Vx` (R102). -/
  | ldF (x : Nibble)
  /-- Fx33 `LD B, Vx` (R103). -/
  | ldB (x : Nibble)
  /-- Fx55 `LD [I], Vx` (R104). -/
  | stRegs (x : Nibble)
  /-- Fx65 `LD Vx, [I]` (R105). -/
  | ldRegs (x : Nibble)
  deriving DecidableEq, Repr

end Sys2Proof
end

