-- ==== Sys2Proof/WellFormed.lean ====
section
/-! DEFINITION. What is well formed: an opcode word (30_encoding.md R52). Every term of Instr is well
formed already, since its operand types are the fields of R46 (an `x` outside 0..15 cannot be written),
and so is every Config (R162's bound is the type of `fontBase`). The ROM that Reset accepts is `romFits`
in Machine/Interface.lean. -/

namespace Sys2Proof

/-- A row of R52's table: `op` is the instruction iff `op and mask = pattern`. -/
structure OpcodeRow where
  /-- the column "match" -/
  pattern : Word
  /-- the column "mask" -/
  mask : Word
  deriving DecidableEq, Repr

/-- R52: the word is the row's instruction. -/
def OpcodeRow.covers (r : OpcodeRow) (op : Word) : Bool := op &&& r.mask == r.pattern

/-- Two rows share no word: their patterns differ in a bit that both masks test. -/
def OpcodeRow.disjoint (r q : OpcodeRow) : Bool := (r.pattern ^^^ q.pattern) &&& r.mask &&& q.mask != 0

/-- Rows 1 to 12 of R52. -/
def opcodeRows1to12 : List OpcodeRow :=
  [⟨0x00E0, 0xFFFF⟩,
   ⟨0x00EE, 0xFFFF⟩,
   ⟨0x1000, 0xF000⟩,
   ⟨0x2000, 0xF000⟩,
   ⟨0x3000, 0xF000⟩,
   ⟨0x4000, 0xF000⟩,
   ⟨0x5000, 0xF00F⟩,
   ⟨0x6000, 0xF000⟩,
   ⟨0x7000, 0xF000⟩,
   ⟨0x8000, 0xF00F⟩,
   ⟨0x8001, 0xF00F⟩,
   ⟨0x8002, 0xF00F⟩]

/-- Rows 13 to 23 of R52. -/
def opcodeRows13to23 : List OpcodeRow :=
  [⟨0x8003, 0xF00F⟩,
   ⟨0x8004, 0xF00F⟩,
   ⟨0x8005, 0xF00F⟩,
   ⟨0x8006, 0xF00F⟩,
   ⟨0x8007, 0xF00F⟩,
   ⟨0x800E, 0xF00F⟩,
   ⟨0x9000, 0xF00F⟩,
   ⟨0xA000, 0xF000⟩,
   ⟨0xB000, 0xF000⟩,
   ⟨0xC000, 0xF000⟩,
   ⟨0xD000, 0xF000⟩]

/-- Rows 24 to 34 of R52. -/
def opcodeRows24to34 : List OpcodeRow :=
  [⟨0xE09E, 0xF0FF⟩,
   ⟨0xE0A1, 0xF0FF⟩,
   ⟨0xF007, 0xF0FF⟩,
   ⟨0xF00A, 0xF0FF⟩,
   ⟨0xF015, 0xF0FF⟩,
   ⟨0xF018, 0xF0FF⟩,
   ⟨0xF01E, 0xF0FF⟩,
   ⟨0xF029, 0xF0FF⟩,
   ⟨0xF033, 0xF0FF⟩,
   ⟨0xF055, 0xF0FF⟩,
   ⟨0xF065, 0xF0FF⟩]

/-- The 34 rows of R52. -/
def opcodeRows : List OpcodeRow := opcodeRows1to12 ++ opcodeRows13to23 ++ opcodeRows24to34

/-- The word is one of the 34 instructions; every other word is Unknown (R52, R53, R55). -/
def wellFormedWord (op : Word) : Bool := opcodeRows.any fun r => r.covers op

/-- The row of R52 that is the instruction's own. -/
def Instr.row : Instr → OpcodeRow
  | .cls => ⟨0x00E0, 0xFFFF⟩
  | .ret => ⟨0x00EE, 0xFFFF⟩
  | .jp _ => ⟨0x1000, 0xF000⟩
  | .call _ => ⟨0x2000, 0xF000⟩
  | .seImm _ _ => ⟨0x3000, 0xF000⟩
  | .sneImm _ _ => ⟨0x4000, 0xF000⟩
  | .seReg _ _ => ⟨0x5000, 0xF00F⟩
  | .ldImm _ _ => ⟨0x6000, 0xF000⟩
  | .addImm _ _ => ⟨0x7000, 0xF000⟩
  | .ldReg _ _ => ⟨0x8000, 0xF00F⟩
  | .orReg _ _ => ⟨0x8001, 0xF00F⟩
  | .andReg _ _ => ⟨0x8002, 0xF00F⟩
  | .xorReg _ _ => ⟨0x8003, 0xF00F⟩
  | .addReg _ _ => ⟨0x8004, 0xF00F⟩
  | .subReg _ _ => ⟨0x8005, 0xF00F⟩
  | .shr _ _ => ⟨0x8006, 0xF00F⟩
  | .subnReg _ _ => ⟨0x8007, 0xF00F⟩
  | .shl _ _ => ⟨0x800E, 0xF00F⟩
  | .sneReg _ _ => ⟨0x9000, 0xF00F⟩
  | .ldI _ => ⟨0xA000, 0xF000⟩
  | .jpV0 _ => ⟨0xB000, 0xF000⟩
  | .rnd _ _ => ⟨0xC000, 0xF000⟩
  | .drw _ _ _ => ⟨0xD000, 0xF000⟩
  | .skp _ => ⟨0xE09E, 0xF0FF⟩
  | .sknp _ => ⟨0xE0A1, 0xF0FF⟩
  | .ldVxDt _ => ⟨0xF007, 0xF0FF⟩
  | .ldVxK _ => ⟨0xF00A, 0xF0FF⟩
  | .ldDtVx _ => ⟨0xF015, 0xF0FF⟩
  | .ldStVx _ => ⟨0xF018, 0xF0FF⟩
  | .addI _ => ⟨0xF01E, 0xF0FF⟩
  | .ldF _ => ⟨0xF029, 0xF0FF⟩
  | .ldB _ => ⟨0xF033, 0xF0FF⟩
  | .stRegs _ => ⟨0xF055, 0xF0FF⟩
  | .ldRegs _ => ⟨0xF065, 0xF0FF⟩

end Sys2Proof
end

