-- ==== Sys2Proof/Decode.lean ====
section
/-! DEFINITION. Decoding (30_encoding.md R45 to R55), total on every word and on every byte list, and
after it the encoder, written from the same table. -/

namespace Sys2Proof

/-- Why bytes are no instruction. -/
inductive DecodeError where
  /-- R55: the word is none of the 34 instructions. -/
  | unknown (op : Word)
  /-- Fewer than the two bytes of an instruction (R45). -/
  | truncated
  deriving DecidableEq, Repr

/-- `fam = op[15:12]` (R46). -/
def opFam (op : Word) : Nibble := op.extractLsb' 12 4

/-- `x = op[11:8]` (R46). -/
def opX (op : Word) : Nibble := op.extractLsb' 8 4

/-- `y = op[7:4]` (R46). -/
def opY (op : Word) : Nibble := op.extractLsb' 4 4

/-- `n = op[3:0]` (R46). -/
def opN (op : Word) : Nibble := op.extractLsb' 0 4

/-- `kk = op[7:0]` (R46). -/
def opKk (op : Word) : Byte := op.extractLsb' 0 8

/-- `nnn = op[11:0]` (R46). -/
def opNnn (op : Word) : Addr12 := op.extractLsb' 0 12

/-- Family 0 (R50, R54): only 00E0 and 00EE. -/
def decodeFam0 (op : Word) : Except DecodeError Instr :=
  if op = 0x00E0 then .ok .cls else if op = 0x00EE then .ok .ret else .error (.unknown op)

/-- Families 5 and 9 (R50): the low nibble is 0. -/
def decodeLow0 (i : Nibble → Nibble → Instr) (op : Word) : Except DecodeError Instr :=
  if opN op = 0 then .ok (i (opX op) (opY op)) else .error (.unknown op)

/-- Family 8 (R50): the low nibble is the sub-opcode. -/
def decodeFam8 (op : Word) : Except DecodeError Instr :=
  match opN op with
  | 0x0#4 => .ok (.ldReg (opX op) (opY op))
  | 0x1#4 => .ok (.orReg (opX op) (opY op))
  | 0x2#4 => .ok (.andReg (opX op) (opY op))
  | 0x3#4 => .ok (.xorReg (opX op) (opY op))
  | 0x4#4 => .ok (.addReg (opX op) (opY op))
  | 0x5#4 => .ok (.subReg (opX op) (opY op))
  | 0x6#4 => .ok (.shr (opX op) (opY op))
  | 0x7#4 => .ok (.subnReg (opX op) (opY op))
  | 0xE#4 => .ok (.shl (opX op) (opY op))
  | _ => .error (.unknown op)

/-- Family E (R50): the low byte is the sub-opcode. -/
def decodeFamE (op : Word) : Except DecodeError Instr :=
  match opKk op with
  | 0x9E#8 => .ok (.skp (opX op))
  | 0xA1#8 => .ok (.sknp (opX op))
  | _ => .error (.unknown op)

/-- Family F (R50): the low byte is the sub-opcode. -/
def decodeFamF (op : Word) : Except DecodeError Instr :=
  match opKk op with
  | 0x07#8 => .ok (.ldVxDt (opX op))
  | 0x0A#8 => .ok (.ldVxK (opX op))
  | 0x15#8 => .ok (.ldDtVx (opX op))
  | 0x18#8 => .ok (.ldStVx (opX op))
  | 0x1E#8 => .ok (.addI (opX op))
  | 0x29#8 => .ok (.ldF (opX op))
  | 0x33#8 => .ok (.ldB (opX op))
  | 0x55#8 => .ok (.stRegs (opX op))
  | 0x65#8 => .ok (.ldRegs (opX op))
  | _ => .error (.unknown op)

/-- `Decode(op)` (R50, R51): the family nibble first, then the sub-opcode of the format. The last arm is
family F: 0xF is the one value of the nibble left. -/
def decode (op : Word) : Except DecodeError Instr :=
  match opFam op with
  | 0x0#4 => decodeFam0 op
  | 0x1#4 => .ok (.jp (opNnn op))
  | 0x2#4 => .ok (.call (opNnn op))
  | 0x3#4 => .ok (.seImm (opX op) (opKk op))
  | 0x4#4 => .ok (.sneImm (opX op) (opKk op))
  | 0x5#4 => decodeLow0 .seReg op
  | 0x6#4 => .ok (.ldImm (opX op) (opKk op))
  | 0x7#4 => .ok (.addImm (opX op) (opKk op))
  | 0x8#4 => decodeFam8 op
  | 0x9#4 => decodeLow0 .sneReg op
  | 0xA#4 => .ok (.ldI (opNnn op))
  | 0xB#4 => .ok (.jpV0 (opNnn op))
  | 0xC#4 => .ok (.rnd (opX op) (opKk op))
  | 0xD#4 => .ok (.drw (opX op) (opY op) (opN op))
  | 0xE#4 => decodeFamE op
  | _ => decodeFamF op

/-- R35, R45: the byte at the lower address is `op[15:8]`. -/
def wordOfBytes (hi lo : Byte) : Word := hi ++ lo

/-- Decoding from a byte list: the instruction and the bytes after it (R45). -/
def decodeBytes : List Byte → Except DecodeError (Instr × List Byte)
  | hi :: lo :: rest =>
    match decode (wordOfBytes hi lo) with
    | .ok i => .ok (i, rest)
    | .error e => .error e
  | _ => .error .truncated

/-- The 16-bit word of an instruction (R47, R52). -/
def encode : Instr → Word
  | .cls => 0x00E0
  | .ret => 0x00EE
  | .jp nnn => 0x1#4 ++ nnn
  | .call nnn => 0x2#4 ++ nnn
  | .seImm x kk => 0x3#4 ++ x ++ kk
  | .sneImm x kk => 0x4#4 ++ x ++ kk
  | .seReg x y => 0x5#4 ++ x ++ y ++ 0x0#4
  | .ldImm x kk => 0x6#4 ++ x ++ kk
  | .addImm x kk => 0x7#4 ++ x ++ kk
  | .ldReg x y => 0x8#4 ++ x ++ y ++ 0x0#4
  | .orReg x y => 0x8#4 ++ x ++ y ++ 0x1#4
  | .andReg x y => 0x8#4 ++ x ++ y ++ 0x2#4
  | .xorReg x y => 0x8#4 ++ x ++ y ++ 0x3#4
  | .addReg x y => 0x8#4 ++ x ++ y ++ 0x4#4
  | .subReg x y => 0x8#4 ++ x ++ y ++ 0x5#4
  | .shr x y => 0x8#4 ++ x ++ y ++ 0x6#4
  | .subnReg x y => 0x8#4 ++ x ++ y ++ 0x7#4
  | .shl x y => 0x8#4 ++ x ++ y ++ 0xE#4
  | .sneReg x y => 0x9#4 ++ x ++ y ++ 0x0#4
  | .ldI nnn => 0xA#4 ++ nnn
  | .jpV0 nnn => 0xB#4 ++ nnn
  | .rnd x kk => 0xC#4 ++ x ++ kk
  | .drw x y n => 0xD#4 ++ x ++ y ++ n
  | .skp x => 0xE#4 ++ x ++ 0x9E#8
  | .sknp x => 0xE#4 ++ x ++ 0xA1#8
  | .ldVxDt x => 0xF#4 ++ x ++ 0x07#8
  | .ldVxK x => 0xF#4 ++ x ++ 0x0A#8
  | .ldDtVx x => 0xF#4 ++ x ++ 0x15#8
  | .ldStVx x => 0xF#4 ++ x ++ 0x18#8
  | .addI x => 0xF#4 ++ x ++ 0x1E#8
  | .ldF x => 0xF#4 ++ x ++ 0x29#8
  | .ldB x => 0xF#4 ++ x ++ 0x33#8
  | .stRegs x => 0xF#4 ++ x ++ 0x55#8
  | .ldRegs x => 0xF#4 ++ x ++ 0x65#8

/-- The bytes of a 16-bit word as memory holds them, the high byte at the lower address (R35, R37). -/
def bytesOfWord (op : Word) : List Byte := [op.extractLsb' 8 8, op.extractLsb' 0 8]

/-- An opcode-table word of `nbits` bits, the bits above them 0. A CORE instruction is one 16-bit
word (R45), numbered as R46 numbers it. -/
def tableWord (nbits w : Nat) : Word := BitVec.ofNat 16 (w % 2 ^ nbits)

/-- The instruction the decoder reads from a table word laid out in memory order. -/
def decodeTableWord (nbits w : Nat) : Option Instr :=
  match decodeBytes (bytesOfWord (tableWord nbits w)) with
  | .ok (i, _) => some i
  | .error _ => none

end Sys2Proof
end

