-- ==== Sys2Proof/Config.lean ====
section
/-! DEFINITION. The parameters of CORE (00_scope.md R4) and the free value of the model. -/

namespace Sys2Proof

/-- `ADDR_POLICY` (R33): what an address above 0xFFF does. -/
inductive AddrPolicy where
  /-- The address is taken modulo 4096; no access faults. -/
  | mask
  /-- The access raises AddressFault. -/
  | fault
  deriving DecidableEq, Repr

/-- The parameters of R4 that the source does not fix. A State holds one Config and no step changes it
(DESIGN CHOICE, log 1, safe): a statement about every state is then about every setting. -/
structure Config where
  /-- `ADDR_POLICY` (R33). -/
  addrPolicy : AddrPolicy
  /-- `QUIRK_ADD_I_VF` (R101). -/
  quirkAddIVf : Bool
  /-- `QUIRK_DRAW_WRAP` (R113). -/
  quirkDrawWrap : Bool
  /-- `FONT_BASE` (R162); the type carries R162's bound FONT_BASE + 79 <= 0x1FF. -/
  fontBase : Fin 433
  /-- `FONT` (R163): glyph `d` is bytes 5 d to 5 d + 4, top row first. -/
  font : Vector Byte 80
  deriving DecidableEq, Repr

/-- Glyphs 0 to 3 of R163. -/
def Config.glyphs0to3 : List Byte :=
  [0xF0, 0x90, 0x90, 0x90, 0xF0] ++ [0x20, 0x60, 0x20, 0x20, 0x70] ++
  [0xF0, 0x10, 0xF0, 0x80, 0xF0] ++ [0xF0, 0x10, 0xF0, 0x10, 0xF0]

/-- Glyphs 4 to 7 of R163. -/
def Config.glyphs4to7 : List Byte :=
  [0x90, 0x90, 0xF0, 0x10, 0x10] ++ [0xF0, 0x80, 0xF0, 0x10, 0xF0] ++
  [0xF0, 0x80, 0xF0, 0x90, 0xF0] ++ [0xF0, 0x10, 0x20, 0x40, 0x40]

/-- Glyphs 8 to B of R163. -/
def Config.glyphs8toB : List Byte :=
  [0xF0, 0x90, 0xF0, 0x90, 0xF0] ++ [0xF0, 0x90, 0xF0, 0x10, 0xF0] ++
  [0xF0, 0x90, 0xF0, 0x90, 0x90] ++ [0xE0, 0x90, 0xE0, 0x90, 0xE0]

/-- Glyphs C to F of R163. -/
def Config.glyphsCtoF : List Byte :=
  [0xF0, 0x80, 0x80, 0x80, 0xF0] ++ [0xE0, 0x90, 0x90, 0x90, 0xE0] ++
  [0xF0, 0x80, 0xF0, 0x80, 0xF0] ++ [0xF0, 0x80, 0xF0, 0x80, 0x80]

/-- The default of the parameter `FONT` (R163). -/
def Config.defaultFont : Vector Byte 80 :=
  ⟨(Config.glyphs0to3 ++ Config.glyphs4to7 ++ Config.glyphs8toB ++ Config.glyphsCtoF).toArray, rfl⟩

/-- The parameters at the defaults of R4. -/
def Config.default : Config where
  addrPolicy := .mask
  quirkAddIVf := false
  quirkDrawWrap := false
  fontBase := 0x050
  font := Config.defaultFont

/-- The free random byte (R138): draw number `k` of the environment, a draw under no law. It has no
body, so nothing can be proved about its value (DESIGN CHOICE, log 2, safe). -/
opaque Config.freeRnd : Nat → Byte

end Sys2Proof
end

