-- ==== Sys2Proof/Machine/State.lean ====
section
/-! DEFINITION. The state of CORE (10_state.md R10 to R26), its configuration (00_scope.md R4), the
environment's side of the interface (R5), and the state after Reset (R24). Plain data throughout. -/

namespace Sys2Proof.Machine

/-- Byte memory as address and byte pairs: addresses strictly rising below 4096, and no pair that
equals what an unlisted address reads as (`Memory.background` in Machine/Ops.lean). -/
abbrev Memory := List Host.Cell

/-- The values of `RUN` (R21). -/
inductive RunState where
  /-- 0: from power-on until the first successful Reset. -/
  | unloaded
  /-- 1: after a successful Reset. -/
  | running
  /-- 2: after a fatal fault in Step. -/
  | halted
  deriving DecidableEq, Repr

/-- The fault codes of R140; `none` is the value 0 of `FCODE`. -/
inductive FaultCode where
  /-- 0: no fault. -/
  | none
  /-- 1: a ROM above 3584 bytes; a reply of Reset only, never held in `FCODE` (R140, R161). -/
  | invalidRom
  /-- 2: a word that is no instruction (R142). -/
  | unknownOpcode
  /-- 3: a 17th nested call (R143). -/
  | stackOverflow
  /-- 4: a return with no call (R144). -/
  | stackUnderflow
  /-- 5: an address above 0xFFF under ADDR_POLICY = FAULT (R145). -/
  | addressFault
  deriving DecidableEq, Repr

/-- The operations that drive CORE from outside (R5). -/
inductive Op where
  /-- `Reset(rom)` (R160, R161). -/
  | reset (rom : List Byte)
  /-- `Step(rnd)` (R56). -/
  | step (rnd : Byte)
  /-- `Tick` (R135). -/
  | tick
  /-- `KeyPress(k)` (R120). -/
  | keyPress (k : Nibble)
  /-- `KeyRelease(k)` (R121). -/
  | keyRelease (k : Nibble)
  deriving DecidableEq, Repr

/-- The MODEL's own fields: the environment's side of the interface. None is state of CORE. -/
structure Env where
  /-- The operations the caller issues next, oldest first; when empty, the caller issues a Step
  (DESIGN CHOICE, log 3). -/
  schedule : List Op
  /-- The argument `rnd` of the Step in progress, when the schedule names one (log 2). -/
  rndArg : Option Byte
  /-- How many free random bytes have been drawn (DESIGN CHOICE, log 2). -/
  draws : Nat
  deriving DecidableEq, Repr

/-- Everything the spec gives the machine (10_state.md), then its configuration and the environment. -/
structure State where
  /-- V[0]..V[15] (R10); V[15] is VF (R12). -/
  v : Vector Byte 16
  /-- I (R13). -/
  i : Word
  /-- PC (R14). -/
  pc : Word
  /-- STACK[0]..STACK[15] (R16). -/
  stack : Vector Word 16
  /-- SP, 0..16 (R16). -/
  sp : Fin 17
  /-- DT (R17). -/
  dt : Byte
  /-- ST (R17). -/
  st : Byte
  /-- FB (R18): row y is `fb[y]`, and FB[y][x] is bit x of it. -/
  fb : Vector (BitVec 64) 32
  /-- KEYS (R19): bit k is KEYS[k]. -/
  keys : BitVec 16
  /-- WAIT (R20). -/
  wait : Bool
  /-- WAITREG (R20). -/
  waitReg : Nibble
  /-- KEVT (R20). -/
  kevt : Bool
  /-- KCODE (R20). -/
  kcode : Nibble
  /-- RUN (R21). -/
  run : RunState
  /-- FCODE (R21). -/
  fcode : FaultCode
  /-- FPC (R21). -/
  fpc : Word
  /-- FOP (R21). -/
  fop : Word
  /-- MEM (R22). -/
  mem : Memory
  /-- The parameters of R4. -/
  cfg : Config
  /-- The environment (the model's own). -/
  env : Env
  deriving DecidableEq, Repr

/-- Reasons for which the model itself would stop with a fault. There is none: every fault the spec
names (R140) is TAKEN, a next state with RUN = HALTED (R146), and a Step of a halted CORE changes
nothing (R147). Nobody raises a Fault; log 5, safe. -/
inductive Fault where
  deriving DecidableEq, Repr

/-- Reasons for which the model gives no meaning. -/
inductive Refusal where
  /-- Only for an arm of exec without a meaning; every arm has one, so nobody raises it. Safe: the
  machine would stop where the hardware goes on. -/
  | notModelled (mnemonic : String)
  deriving DecidableEq, Repr

/-- The three outcomes of an instruction or of a step of this machine. -/
abbrev Result := Host.Outcome State Fault Refusal

/-- The state after a successful Reset with the empty ROM (R24, R160; log 4), parameters at their
defaults (R4). Nothing is listed in memory: an unlisted address reads as Reset leaves it (log 6). -/
def State.reset : State where
  v := Vector.replicate 16 0
  i := 0x0000
  pc := 0x0200
  stack := Vector.replicate 16 0
  sp := 0
  dt := 0
  st := 0
  fb := Vector.replicate 32 0
  keys := 0
  wait := false
  waitReg := 0
  kevt := false
  kcode := 0
  run := .running
  fcode := .none
  fpc := 0
  fop := 0
  mem := []
  cfg := Config.default
  env := { schedule := [], rndArg := none, draws := 0 }

end Sys2Proof.Machine
end

