-- ==== Sys2Proof/Machine/Ops.lean ====
section
/-! DEFINITION. The named operations over registers, the stack, memory and the fault registers. Every
meaning is written with them. -/

namespace Sys2Proof.Machine

/-! Registers (10_state.md) -/

/-- `V[x]` (R10). -/
def State.getV (s : State) (x : Nibble) : Byte := s.v[x.toNat]

/-- `V[x] <- b` (R10). -/
def State.setV (s : State) (x : Nibble) (b : Byte) : State := { s with v := s.v.set x.toNat b }

/-- The index of VF (R12). -/
def vf : Nibble := 0xF

/-- `I <- w` (R13). -/
def State.setI (s : State) (w : Word) : State := { s with i := w }

/-- `PC <- w` (R14). -/
def State.setPc (s : State) (w : Word) : State := { s with pc := w }

/-- `PC <- (PC + 2) mod 65536`: the default advance of R58, and once more for a skip (R69). -/
def State.advance (s : State) : State := s.setPc (s.pc + 2)

/-- A conditional skip (R69 to R72, R122, R123). -/
def State.skipIf (s : State) (c : Bool) : State := if c then s.advance else s

/-- `DT <- b` (R17). -/
def State.setDt (s : State) (b : Byte) : State := { s with dt := b }

/-- `ST <- b` (R17). -/
def State.setSt (s : State) (b : Byte) : State := { s with st := b }

/-- `FB <- f` (R18). -/
def State.setFb (s : State) (f : Vector (BitVec 64) 32) : State := { s with fb := f }

/-- `FB[y][x]` (R18). -/
def State.pixel (s : State) (y : Fin 32) (x : Fin 64) : Bool := s.fb[y].getLsbD x

/-- `KEYS[k]` (R19). -/
def State.keyDown (s : State) (k : Nibble) : Bool := s.keys.getLsbD k.toNat

/-- `KEYS[k] <- 1` (R120). -/
def State.setKey (s : State) (k : Nibble) : State := { s with keys := s.keys ||| BitVec.twoPow 16 k.toNat }

/-- `KEYS[k] <- 0` (R121). -/
def State.clearKey (s : State) (k : Nibble) : State := { s with keys := s.keys &&& ~~~(BitVec.twoPow 16 k.toNat) }

/-! The call stack (R16) -/

/-- A push (R66): the value goes to `STACK[SP]`, then SP rises. -/
def State.push (s : State) (w : Word) (h : s.sp.val < 16) : State :=
  { s with stack := s.stack.set s.sp.val w, sp := ⟨s.sp.val + 1, by omega⟩ }

/-- The entry a pop reads (R67): `STACK[SP - 1]`. -/
def State.top (s : State) (h : 0 < s.sp.val) : Word := s.stack[s.sp.val - 1]'(by omega)

/-- A pop (R67): SP falls, the dead entry keeps its value (R16). -/
def State.pop (s : State) : State := { s with sp := ⟨s.sp.val - 1, by omega⟩ }

/-! Memory (20_memory.md R30 to R36) -/

/-- What Reset leaves at an address before the ROM is copied (R31, R160): font byte or 0. It is what
an address that memory does not list reads as. -/
def Memory.background (c : Config) (a : Nat) : Byte :=
  if h : c.fontBase.val ≤ a ∧ a < c.fontBase.val + 80 then c.font[a - c.fontBase.val]'(by omega) else 0

/-- The byte at an address below 4096. -/
def Memory.read (c : Config) : Memory → Nat → Byte
  | [], a => Memory.background c a
  | e :: rest, a => if e.1 = a then e.2 else Memory.read c rest a

/-- The list with the pair for one address set, in rising order of address. -/
def Memory.put : Memory → Nat → Byte → Memory
  | [], a, b => [(a, b)]
  | e :: rest, a, b =>
    if a < e.1 then (a, b) :: e :: rest
    else if a = e.1 then (a, b) :: rest
    else e :: Memory.put rest a b

/-- The list without the pair for one address. -/
def Memory.erase : Memory → Nat → Memory
  | [], _ => []
  | e :: rest, a => if a = e.1 then rest else e :: Memory.erase rest a

/-- One byte written; a byte equal to the background is not listed, so equal memories are equal lists. -/
def Memory.write (c : Config) (m : Memory) (a : Nat) (b : Byte) : Memory :=
  if b = Memory.background c a then Memory.erase m a else Memory.put m a b

/-- The canonical form: addresses strictly rising, all below 4096, no byte equal to the background. -/
abbrev Memory.wf (c : Config) (m : Memory) : Prop :=
  m.Pairwise (fun p q => p.1 < q.1) ∧ ∀ e ∈ m, e.1 < 4096 ∧ e.2 ≠ Memory.background c e.1

/-- R33: under FAULT an address above 0xFFF faults. -/
def addrFaults (c : Config) (a : Nat) : Bool := c.addrPolicy = .fault ∧ a > 0xFFF

/-- The 12-bit effective address that `EA` gives where it does not fault (R30, R33). -/
def wrapAddr (a : Nat) : Nat := a % 4096

/-- `EA(a)` (R33); `none` where it raises AddressFault. -/
def ea (c : Config) (a : Nat) : Option Nat :=
  if addrFaults c a then none else some (wrapAddr a)

/-- `MEM[EA(a)]` where EA does not fault (R34). -/
def State.memRead (s : State) (a : Nat) : Byte := Memory.read s.cfg s.mem (wrapAddr a)

/-- `MEM[EA(a)] <- b` where EA does not fault (R34). -/
def State.memWrite (s : State) (a : Nat) (b : Byte) : State :=
  { s with mem := Memory.write s.cfg s.mem (wrapAddr a) b }

/-- Consecutive bytes from `a`, each through EA on its own (R36). -/
def State.readBytes (s : State) (a n : Nat) : List Byte := (List.range n).map fun j => s.memRead (a + j)

/-- Consecutive bytes stored from `a`, in ascending order, each through EA on its own (R36). -/
def State.writeBytes : State → Nat → List Byte → State
  | s, _, [] => s
  | s, a, b :: bs => State.writeBytes (s.memWrite a b) (a + 1) bs

/-- R36: under FAULT a block of `len` bytes at `a` faults when it is not empty and its last address is
above 0xFFF; the whole range is checked before anything is read or written. -/
def State.blockFaults (s : State) (a len : Nat) : Bool := s.cfg.addrPolicy = .fault ∧ 1 ≤ len ∧ a + len - 1 > 0xFFF

/-- `Fetch16(PC)` (R35): two byte reads, each through EA, the second at (PC + 1) mod 65536; `none`
where one of them raises AddressFault. -/
def State.fetch (s : State) : Option Word :=
  match ea s.cfg s.pc.toNat, ea s.cfg (s.pc + 1).toNat with
  | some h, some l => some (wordOfBytes (Memory.read s.cfg s.mem h) (Memory.read s.cfg s.mem l))
  | _, _ => none

/-- A word stored where the next fetch reads it (R35). -/
def State.placeWord (s : State) (op : Word) : State :=
  (s.memWrite s.pc.toNat (op.extractLsb' 8 8)).memWrite (s.pc + 1).toNat (op.extractLsb' 0 8)

/-! Taking a fault (60_exceptions.md R146) -/

/-- Fault entry (R146): RUN, FCODE, FPC and FOP, and nothing else. The default advance of PC has been
made already where R146 says so. -/
def State.takeFault (s : State) (c : FaultCode) (a op : Word) : State :=
  { s with run := .halted, fcode := c, fpc := a, fop := op }

/-- A fault of an executing instruction: PC holds a + 2 (R58), and the opcode is the instruction's word. -/
def State.raise (s : State) (c : FaultCode) (i : Instr) : State := s.takeFault c (s.pc - 2) (encode i)

/-! The key wait (44_input.md) -/

/-- Entering the suspension (R124): PC back to the Fx0A, WAIT, WAITREG and KEVT. -/
def State.enterWait (s : State) (x : Nibble) : State :=
  { s with pc := s.pc - 2, wait := true, waitReg := x, kevt := false }

/-- Leaving the suspension (R125): the event is consumed and PC passes the Fx0A. -/
def State.leaveWait (s : State) : State := { s with pc := s.pc + 2, wait := false, kevt := false }

/-- The latch of a key press (R120). -/
def State.latchKey (s : State) (k : Nibble) : State := { s with kevt := true, kcode := k }

/-! The environment's side -/

/-- The byte `rnd` of the Step in progress (R138): the schedule's argument, else a free value. -/
def State.rndByte (s : State) : Byte := s.env.rndArg.getD (Config.freeRnd s.env.draws)

/-- The environment after a draw: a free value is used once. -/
def State.drawn (s : State) : State :=
  match s.env.rndArg with
  | some _ => s
  | none => { s with env := { s.env with draws := s.env.draws + 1 } }

/-- The argument of `Step(rnd)` put in place (R5). -/
def State.setRndArg (s : State) (r : Option Byte) : State := { s with env := { s.env with rndArg := r } }

/-- The caller's coming operations (R5, R172). -/
def State.setSchedule (s : State) (l : List Op) : State := { s with env := { s.env with schedule := l } }

/-- A function on the next state of an outcome. -/
def mapNext (f : State → State) : Result → Result
  | .next s => .next (f s)
  | .fault r => .fault r
  | .refused r => .refused r

end Sys2Proof.Machine
end

