-- ==== Sys2Proof/Machine/Operands.lean ====
section
/-! DEFINITION. The operand forms beyond a plain register or immediate. -/

namespace Sys2Proof.Machine

/-- `zext_16(nnn)` (R48). -/
def zext16 (nnn : Addr12) : Word := nnn.setWidth 16

/-- `zext_16(V[x])` (R68, R101). -/
def State.getV16 (s : State) (x : Nibble) : Word := (s.getV x).setWidth 16

/-- `V[x][3:0]`: the key a skip tests (R122), the glyph Fx29 selects (R102). -/
def State.lowNibble (s : State) (x : Nibble) : Nibble := (s.getV x).extractLsb' 0 4

/-- `FONT_BASE + 5 * d` (R102, R162). -/
def glyphAddr (c : Config) (d : Nibble) : Word := BitVec.ofNat 16 (c.fontBase.val + 5 * d.toNat)

/-- The three BCD digits of a byte, hundreds first (R103). -/
def bcdDigits (v : Byte) : List Byte :=
  [BitVec.ofNat 8 (v.toNat / 100), BitVec.ofNat 8 (v.toNat / 10 % 10), BitVec.ofNat 8 (v.toNat % 10)]

/-- V[0]..V[x] (R104). -/
def State.regBlock (s : State) (x : Nibble) : List Byte := s.v.toList.take (x.toNat + 1)

/-- V[0]..V[x] loaded from the bytes at `a`, the other registers kept (R105). -/
def State.loadBlock (s : State) (x : Nibble) (a : Nat) : State :=
  { s with v := Vector.ofFn fun j => if j.val ≤ x.toNat then s.memRead (a + j.val) else s.v[j] }

/-- Where the sprite pixel at column `px`, row `py` lands (R113): reduced when wrapping, else `none`
when it is off the screen. -/
def landing (wrap : Bool) (px py : Nat) : Option (Fin 32 × Fin 64) :=
  if wrap then some (Fin.ofNat 32 py, Fin.ofNat 64 px)
  else if h : px < 64 ∧ py < 32 then some (⟨py, h.2⟩, ⟨px, h.1⟩) else none

/-- The pixels a sprite row toggles, left to right, bit 7 leftmost (R113). -/
def rowPixels (wrap : Bool) (x0 py : Nat) (b : Byte) : List (Fin 32 × Fin 64) :=
  (List.range 8).filterMap fun c => if b.getLsbD (7 - c) then landing wrap (x0 + c) py else none

/-- The pixels a sprite toggles, rows top to bottom (R113). -/
def spritePixels (wrap : Bool) (x0 : Nat) : Nat → List Byte → List (Fin 32 × Fin 64)
  | _, [] => []
  | py, b :: bs => rowPixels wrap x0 py b ++ spritePixels wrap x0 (py + 1) bs

/-- One toggle (R113): the collision is set when the pixel was on, and the pixel is inverted. -/
def xorPixel (fc : Vector (BitVec 64) 32 × Bool) (p : Fin 32 × Fin 64) : Vector (BitVec 64) 32 × Bool :=
  (fc.1.set p.1.val (fc.1[p.1] ^^^ BitVec.twoPow 64 p.2.val), fc.2 || fc.1[p.1].getLsbD p.2.val)

/-- The pixels that `DRW Vx, Vy, n` toggles: a function of V[x], V[y], I, n and memory (R113, R114 (2)). -/
def State.drawPixels (s : State) (x y n : Nibble) : List (Fin 32 × Fin 64) :=
  spritePixels s.cfg.quirkDrawWrap ((s.getV x).toNat % 64) ((s.getV y).toNat % 32)
    (s.readBytes s.i.toNat n.toNat)

end Sys2Proof.Machine
end

