-- ==== Sys2Proof/Machine/Control.lean ====
section
/-! DEFINITION. Control-flow instructions (40_control_flow.md). PC holds a + 2 on entry (R58). -/

namespace Sys2Proof.Machine

/-- 00EE `RET` (R67). -/
def execRet (s : State) : Result :=
  if h : 0 < s.sp.val then .next (s.pop.setPc (s.top h)) else .next (s.raise .stackUnderflow .ret)

/-- 1nnn `JP nnn` (R65). -/
def execJp (nnn : Addr12) (s : State) : Result := .next (s.setPc (zext16 nnn))

/-- 2nnn `CALL nnn` (R66). -/
def execCall (nnn : Addr12) (s : State) : Result :=
  if h : s.sp.val < 16 then .next ((s.push s.pc h).setPc (zext16 nnn))
  else .next (s.raise .stackOverflow (.call nnn))

/-- 3xkk `SE Vx, kk` (R69). -/
def execSeImm (x : Nibble) (kk : Byte) (s : State) : Result := .next (s.skipIf (s.getV x = kk))

/-- 4xkk `SNE Vx, kk` (R70). -/
def execSneImm (x : Nibble) (kk : Byte) (s : State) : Result := .next (s.skipIf (s.getV x ≠ kk))

/-- 5xy0 `SE Vx, Vy` (R71). -/
def execSeReg (x y : Nibble) (s : State) : Result := .next (s.skipIf (s.getV x = s.getV y))

/-- 9xy0 `SNE Vx, Vy` (R72). -/
def execSneReg (x y : Nibble) (s : State) : Result := .next (s.skipIf (s.getV x ≠ s.getV y))

/-- Bnnn `JP V0, nnn` (R68). -/
def execJpV0 (nnn : Addr12) (s : State) : Result := .next (s.setPc (zext16 nnn + s.getV16 0))

end Sys2Proof.Machine
end

