-- ==== Sys2Proof/Machine/Flags.lean ====
section
/-! DEFINITION. The flag values that go to VF (10_state.md R12, 41_register_ops.md R86). -/

namespace Sys2Proof.Machine

/-- A flag as a byte: 0 or 1 (R12). -/
def flagByte (b : Bool) : Byte := if b then 1 else 0

/-- Carry out of bit 7 (R87). -/
def carryFlag (a b : Byte) : Byte := flagByte (a.toNat + b.toNat > 255)

/-- "1 = no borrow": the minuend is greater than or equal to the subtrahend (R86, R88, R90). -/
def noBorrowFlag (a b : Byte) : Byte := flagByte (a.toNat ≥ b.toNat)

/-- The bit a right shift drops (R89). -/
def shrFlag (a : Byte) : Byte := flagByte (a.getLsbD 0)

/-- The bit a left shift drops (R91). -/
def shlFlag (a : Byte) : Byte := flagByte (a.getLsbD 7)

/-- "I-register overflow past 0xFFF" of the Fx1E quirk (R101). -/
def indexFlag (i : Word) (b : Byte) : Byte := flagByte (i.toNat + b.toNat > 0x0FFF)

/-- The result goes to V[x] and the flag to VF last (R86). -/
def State.setVFlag (s : State) (x : Nibble) (r f : Byte) : State := (s.setV x r).setV vf f

end Sys2Proof.Machine
end

