-- ==== Sys2Proof/Machine/Display.lean ====
section
/-! DEFINITION. Display instructions (43_display.md). -/

namespace Sys2Proof.Machine

/-- 00E0 `CLS` (R112). -/
def execCls (s : State) : Result := .next (s.setFb (Vector.replicate 32 0))

/-- Dxyn `DRW Vx, Vy, n` (R113): every toggle in turn, VF last. -/
def execDrw (x y n : Nibble) (s : State) : Result :=
  if s.blockFaults s.i.toNat n.toNat then .next (s.raise .addressFault (.drw x y n))
  else
    let fc := (s.drawPixels x y n).foldl xorPixel (s.fb, false)
    .next ((s.setFb fc.1).setV vf (flagByte fc.2))

end Sys2Proof.Machine
end

