-- ==== Sys2Proof/Machine/Index.lean ====
section
/-! DEFINITION. Index-register and memory instructions (42_memory_ops.md). -/

namespace Sys2Proof.Machine

/-- Annn `LD I, nnn` (R100). -/
def execLdI (nnn : Addr12) (s : State) : Result := .next (s.setI (zext16 nnn))

/-- Fx1E `ADD I, Vx` (R101): VF is written only under QUIRK_ADD_I_VF. -/
def execAddI (x : Nibble) (s : State) : Result :=
  if s.cfg.quirkAddIVf then .next ((s.setI (s.i + s.getV16 x)).setV vf (indexFlag s.i (s.getV x)))
  else .next (s.setI (s.i + s.getV16 x))

/-- Fx29 `LD F, Vx` (R102). -/
def execLdF (x : Nibble) (s : State) : Result := .next (s.setI (glyphAddr s.cfg (s.lowNibble x)))

/-- Fx33 `LD B, Vx` (R103). -/
def execLdB (x : Nibble) (s : State) : Result :=
  if s.blockFaults s.i.toNat 3 then .next (s.raise .addressFault (.ldB x))
  else .next (s.writeBytes s.i.toNat (bcdDigits (s.getV x)))

/-- Fx55 `LD [I], Vx` (R104): I is not changed. -/
def execStRegs (x : Nibble) (s : State) : Result :=
  if s.blockFaults s.i.toNat (x.toNat + 1) then .next (s.raise .addressFault (.stRegs x))
  else .next (s.writeBytes s.i.toNat (s.regBlock x))

/-- Fx65 `LD Vx, [I]` (R105): I is not changed. -/
def execLdRegs (x : Nibble) (s : State) : Result :=
  if s.blockFaults s.i.toNat (x.toNat + 1) then .next (s.raise .addressFault (.ldRegs x))
  else .next (s.loadBlock x s.i.toNat)

end Sys2Proof.Machine
end

