-- ==== Sys2Proof/Machine/Input.lean ====
section
/-! DEFINITION. Keypad instructions and the resumption of a key wait (44_input.md). -/

namespace Sys2Proof.Machine

/-- Ex9E `SKP Vx` (R122). -/
def execSkp (x : Nibble) (s : State) : Result := .next (s.skipIf (s.keyDown (s.lowNibble x)))

/-- ExA1 `SKNP Vx` (R123). -/
def execSknp (x : Nibble) (s : State) : Result := .next (s.skipIf (!s.keyDown (s.lowNibble x)))

/-- Fx0A `LD Vx, K` when WAIT = 0 (R124): it only enters the suspension. -/
def execLdVxK (x : Nibble) (s : State) : Result := .next (s.enterWait x)

/-- `ResumeWait()` (R125): a Step while WAIT = 1. -/
def resumeWait (s : State) : State :=
  if s.kevt then (s.setV s.waitReg (s.kcode.setWidth 8)).leaveWait else s

end Sys2Proof.Machine
end

