-- ==== Sys2Proof/Machine/Random.lean ====
section
/-! DEFINITION. The random instruction (46_random.md). -/

namespace Sys2Proof.Machine

/-- Cxkk `RND Vx, kk` (R138): the byte `rnd` is the schedule's argument or a free value (log 2). -/
def execRnd (x : Nibble) (kk : Byte) (s : State) : Result := .next (s.drawn.setV x (s.rndByte &&& kk))

end Sys2Proof.Machine
end

