-- ==== Sys2Proof/Machine/Register.lean ====
section
/-! DEFINITION. Register operations (41_register_ops.md). -/

namespace Sys2Proof.Machine

/-- 6xkk `LD Vx, kk` (R80). -/
def execLdImm (x : Nibble) (kk : Byte) (s : State) : Result := .next (s.setV x kk)

/-- 7xkk `ADD Vx, kk` (R81): no carry flag effect. -/
def execAddImm (x : Nibble) (kk : Byte) (s : State) : Result := .next (s.setV x (s.getV x + kk))

/-- 8xy0 `LD Vx, Vy` (R82). -/
def execLdReg (x y : Nibble) (s : State) : Result := .next (s.setV x (s.getV y))

/-- 8xy1 `OR Vx, Vy` (R83). -/
def execOrReg (x y : Nibble) (s : State) : Result := .next (s.setV x (s.getV x ||| s.getV y))

/-- 8xy2 `AND Vx, Vy` (R84). -/
def execAndReg (x y : Nibble) (s : State) : Result := .next (s.setV x (s.getV x &&& s.getV y))

/-- 8xy3 `XOR Vx, Vy` (R85). -/
def execXorReg (x y : Nibble) (s : State) : Result := .next (s.setV x (s.getV x ^^^ s.getV y))

/-- 8xy4 `ADD Vx, Vy` (R87). -/
def execAddReg (x y : Nibble) (s : State) : Result :=
  .next (s.setVFlag x (s.getV x + s.getV y) (carryFlag (s.getV x) (s.getV y)))

/-- 8xy5 `SUB Vx, Vy` (R88). -/
def execSubReg (x y : Nibble) (s : State) : Result :=
  .next (s.setVFlag x (s.getV x - s.getV y) (noBorrowFlag (s.getV x) (s.getV y)))

/-- 8xy6 `SHR Vx` (R89); V[y] is not read. -/
def execShr (x _y : Nibble) (s : State) : Result :=
  .next (s.setVFlag x (s.getV x >>> 1) (shrFlag (s.getV x)))

/-- 8xy7 `SUBN Vx, Vy` (R90). -/
def execSubnReg (x y : Nibble) (s : State) : Result :=
  .next (s.setVFlag x (s.getV y - s.getV x) (noBorrowFlag (s.getV y) (s.getV x)))

/-- 8xyE `SHL Vx` (R91); V[y] is not read. -/
def execShl (x _y : Nibble) (s : State) : Result :=
  .next (s.setVFlag x (s.getV x <<< 1) (shlFlag (s.getV x)))

end Sys2Proof.Machine
end

