-- ==== Sys2Proof/Machine/Cycle.lean ====
section
/-! DEFINITION. The Step operation (30_encoding.md R56 to R58). -/

namespace Sys2Proof.Machine

/-- Decode and execute (R58); `s` has PC advanced already. An Unknown word raises UnknownOpcode (R55, R142). -/
def dispatchWord (op : Word) (s : State) : Result :=
  match decode op with
  | .error _ => .next (s.takeFault .unknownOpcode (s.pc - 2) op)
  | .ok i => exec i s

/-- `Cycle(rnd)` (R58). A fetch that faults leaves PC at a and records FOP = 0 (R146). -/
def cycle (s : State) : Result :=
  match s.fetch with
  | none => .next (s.takeFault .addressFault s.pc 0)
  | some op => dispatchWord op s.advance

/-- `Step(rnd)` (R56): refused while UNLOADED and the old fault again while HALTED, both without any
change of state (R166, R147; log 5); a resumption while WAIT = 1 (R57); else a cycle. -/
def coreStep (s : State) : Result :=
  match s.run with
  | .unloaded => .next s
  | .halted => .next s
  | .running => if s.wait then .next (resumeWait s) else cycle s

end Sys2Proof.Machine
end

