-- ==== Sys2Proof/Machine/Interface.lean ====
section
/-! DEFINITION. The operations of the outside world and the outputs (00_scope.md R5, R6; 10_state.md R25). -/

namespace Sys2Proof.Machine

/-- `ROM_BASE` (R4). -/
def romBase : Nat := 0x200

/-- `ROM_MAX` (R4). -/
def romMax : Nat := 3584

/-- R160, R161: a ROM that Reset accepts. -/
def romFits (rom : List Byte) : Bool := rom.length ≤ romMax

/-- `Reset(rom)` (R160, R161): a ROM that is too long changes nothing; else every piece of CORE's state
is written. The configuration and the environment are not CORE's (log 14). -/
def resetOp (rom : List Byte) (s : State) : State :=
  if romFits rom then ({ State.reset with cfg := s.cfg, env := s.env }).writeBytes romBase rom else s

/-- One timer's decrement (R135): it stays at 0. -/
def countDown (b : Byte) : Byte := if b = 0 then 0 else b - 1

/-- `Tick` (R135); refused without change while UNLOADED (R166). -/
def tick (s : State) : State :=
  if s.run = .unloaded then s else (s.setDt (countDown s.dt)).setSt (countDown s.st)

/-- `KeyPress(k)` (R120): the flag, and the latch of the first press since the wait began. -/
def keyPress (k : Nibble) (s : State) : State :=
  if s.run = .unloaded then s
  else if s.wait && !s.kevt then (s.setKey k).latchKey k else s.setKey k

/-- `KeyRelease(k)` (R121). -/
def keyRelease (k : Nibble) (s : State) : State :=
  if s.run = .unloaded then s else s.clearKey k

/-- One operation of the caller (R5). The argument of Step lives for that Step only. -/
def perform (o : Op) (s : State) : Result :=
  match o with
  | .reset rom => .next (resetOp rom s)
  | .step r => mapNext (fun t => t.setRndArg none) (coreStep (s.setRndArg (some r)))
  | .tick => .next (tick s)
  | .keyPress k => .next (keyPress k s)
  | .keyRelease k => .next (keyRelease k s)

/-- The next operation (R5, R172): the oldest of the schedule, which it leaves; a Step when there is none. -/
def runNext (s : State) : Result :=
  match s.env.schedule with
  | [] => coreStep s
  | o :: rest => perform o (s.setSchedule rest)

/-- `SND` (R26). -/
def State.snd (s : State) : Bool := s.st != 0

/-- What an operation returns to its caller (R25, R56). -/
inductive Reply where
  /-- The operation was done. -/
  | ok
  /-- A Step raised a fault, or CORE was halted by one already (R146, R147). -/
  | fault (c : FaultCode) (fpc fop : Word)
  /-- Reset was given a ROM of this length, above 3584 bytes (R141). -/
  | invalidRom (length : Nat)
  /-- The operation came before the first successful Reset (R166). -/
  | refused
  deriving DecidableEq, Repr

/-- The reply of a Step, read from the state after it (R56): it is refused exactly when CORE is
UNLOADED, and a fault exactly when CORE is HALTED after it. -/
def stepReply (after : State) : Reply :=
  match after.run with
  | .unloaded => .refused
  | .halted => .fault after.fcode after.fpc after.fop
  | .running => .ok

/-- The reply of an operation, from the states before and after it (R25). -/
def reply (o : Op) (before after : State) : Reply :=
  match o with
  | .reset rom => if romFits rom then .ok else .invalidRom rom.length
  | .step _ => stepReply after
  | _ => if before.run = .unloaded then .refused else .ok

/-- The numeric value of `RUN` (R21). -/
def RunState.number : RunState → BitVec 2
  | .unloaded => 0
  | .running => 1
  | .halted => 2

/-- The numeric fault code (R140). -/
def FaultCode.number : FaultCode → BitVec 3
  | .none => 0
  | .invalidRom => 1
  | .unknownOpcode => 2
  | .stackOverflow => 3
  | .stackUnderflow => 4
  | .addressFault => 5

/-- The outputs of R25, by name. -/
structure Outputs where
  /-- FB -/
  fb : Vector (BitVec 64) 32
  /-- KEYS -/
  keys : BitVec 16
  /-- DT -/
  dt : Byte
  /-- ST -/
  st : Byte
  /-- SND (R26) -/
  snd : Bool
  /-- RUN -/
  run : BitVec 2
  /-- FCODE -/
  fcode : BitVec 3
  /-- FPC -/
  fpc : Word
  /-- FOP -/
  fop : Word
  deriving DecidableEq, Repr

/-- What the outside may read between operations (R6, R25). -/
def State.outputs (s : State) : Outputs where
  fb := s.fb
  keys := s.keys
  dt := s.dt
  st := s.st
  snd := s.snd
  run := s.run.number
  fcode := s.fcode.number
  fpc := s.fpc
  fop := s.fop

/-- A state whose next operation is a Step that fetches a new instruction from PC: RUNNING, not
suspended, no other operation pending, the word at PC (log 15). -/
def State.readyWith (s : State) (op : Word) : State :=
  (({ s with run := .running, wait := false, kevt := false }).setSchedule []).placeWord op

end Sys2Proof.Machine
end

