-- ==== Sys2Proof/Machine/Step.lean ====
section
/-! DEFINITION. The machine's one step: the caller's next operation (00_scope.md R5; log 3). -/

namespace Sys2Proof.Machine

/-- One operation, atomic (R5). -/
def step (s : State) : Host.Outcome State Fault Refusal := Sys2Proof.Machine.runNext s

/-- `s` with an opcode-table word stored where `step` fetches its next instruction (log 4, log 15). -/
def State.withFetchWord (s : State) (nbits w : Nat) : State := s.readyWith (tableWord nbits w)

end Sys2Proof.Machine
end

