-- ==== Sys2Proof/Safety.lean ====
section
/-! DEFINITION. What claims are stated with: the invariant of the machine, the parts of a state that an
instruction may change, the cause of a fault, the parked state, a safe run. -/

namespace Sys2Proof.Machine

/-- The invariant: memory is in its canonical form (R22, R30); a latched key means a waiting CORE (R20);
FCODE is 0 while RUNNING, and a halting fault that is not InvalidRom while HALTED (R21, R140); a fault
never leaves CORE suspended (R56, R146); AddressFault exists only under ADDR_POLICY = FAULT (R145);
no Step is in progress between operations (R5). -/
abbrev State.Inv (s : State) : Prop :=
  Memory.wf s.cfg s.mem ∧
  (s.kevt = true → s.wait = true) ∧
  (s.run = .running → s.fcode = .none) ∧
  (s.run = .halted → s.fcode ≠ .none ∧ s.fcode ≠ .invalidRom) ∧
  (s.run = .halted → s.wait = false) ∧
  (s.run = .halted → s.fcode = .addressFault → s.cfg.addrPolicy = .fault) ∧
  s.env.rndArg = none

/-- The parts of a state, as 10_state.md lists them, then the configuration and the environment. -/
inductive Part where
  /-- V[0]..V[15] -/
  | v
  /-- I -/
  | i
  /-- PC -/
  | pc
  /-- STACK and SP -/
  | stack
  /-- DT -/
  | dt
  /-- ST -/
  | st
  /-- FB -/
  | fb
  /-- KEYS -/
  | keys
  /-- WAIT, WAITREG, KEVT, KCODE -/
  | waiting
  /-- RUN, FCODE, FPC, FOP -/
  | faults
  /-- MEM -/
  | mem
  /-- the parameters of R4 -/
  | cfg
  /-- the environment (the model's own) -/
  | env
  deriving DecidableEq, Repr

/-- The part holds in `t` what it holds in `s`; memory and registers are said through their reads. -/
def Part.Same (s t : State) : Part → Prop
  | .v => ∀ r, t.getV r = s.getV r
  | .i => t.i = s.i
  | .pc => t.pc = s.pc
  | .stack => t.stack = s.stack ∧ t.sp = s.sp
  | .dt => t.dt = s.dt
  | .st => t.st = s.st
  | .fb => ∀ y x, t.pixel y x = s.pixel y x
  | .keys => ∀ k, t.keyDown k = s.keyDown k
  | .waiting => t.wait = s.wait ∧ t.waitReg = s.waitReg ∧ t.kevt = s.kevt ∧ t.kcode = s.kcode
  | .faults => t.run = s.run ∧ t.fcode = s.fcode ∧ t.fpc = s.fpc ∧ t.fop = s.fop
  | .mem => ∀ a, t.memRead a = s.memRead a
  | .cfg => t.cfg = s.cfg
  | .env => t.env = s.env

/-- The frame of a step: every part not listed is unchanged. -/
def OnlyChanges (parts : List Part) (s t : State) : Prop := ∀ p, p ∉ parts → p.Same s t

/-- CORE has been halted by the fault `c` of the instruction at `a` with opcode `op`, and nothing but
the listed parts and the fault registers changed (R146). -/
def HaltedBy (c : FaultCode) (a op : Word) (s t : State) : Prop :=
  t.run = .halted ∧ t.fcode = c ∧ t.fpc = a ∧ t.fop = op ∧ OnlyChanges [.faults] s t

/-- The next operation is a Step that fetches `op` (R56, R58): RUNNING, not suspended, nothing else
scheduled. -/
def State.Fetches (s : State) (op : Word) : Prop :=
  s.run = .running ∧ s.wait = false ∧ s.env.schedule = [] ∧ s.fetch = some op

/-- The parts an instruction may write when it does not fault (the rule of each instruction). -/
def writesParts : Instr → List Part
  | .cls => [.fb]
  | .ret => [.pc, .stack]
  | .jp _ => [.pc]
  | .call _ => [.pc, .stack]
  | .seImm _ _ => [.pc]
  | .sneImm _ _ => [.pc]
  | .seReg _ _ => [.pc]
  | .ldImm _ _ => [.v]
  | .addImm _ _ => [.v]
  | .ldReg _ _ => [.v]
  | .orReg _ _ => [.v]
  | .andReg _ _ => [.v]
  | .xorReg _ _ => [.v]
  | .addReg _ _ => [.v]
  | .subReg _ _ => [.v]
  | .shr _ _ => [.v]
  | .subnReg _ _ => [.v]
  | .shl _ _ => [.v]
  | .sneReg _ _ => [.pc]
  | .ldI _ => [.i]
  | .jpV0 _ => [.pc]
  | .rnd _ _ => [.v, .env]
  | .drw _ _ _ => [.v, .fb]
  | .skp _ => [.pc]
  | .sknp _ => [.pc]
  | .ldVxDt _ => [.v]
  | .ldVxK _ => [.pc, .waiting]
  | .ldDtVx _ => [.dt]
  | .ldStVx _ => [.st]
  | .addI _ => [.v, .i]
  | .ldF _ => [.i]
  | .ldB _ => [.mem]
  | .stRegs _ => [.mem]
  | .ldRegs _ => [.v]

/-- The V registers an instruction may write (R12, R49): its destination, VF where R12's table names the
instruction, the block of Fx65. -/
def writesV (c : Config) (r : Nibble) : Instr → Prop
  | .ldImm x _ => r = x
  | .addImm x _ => r = x
  | .ldReg x _ => r = x
  | .orReg x _ => r = x
  | .andReg x _ => r = x
  | .xorReg x _ => r = x
  | .addReg x _ => r = x ∨ r = 0xF
  | .subReg x _ => r = x ∨ r = 0xF
  | .shr x _ => r = x ∨ r = 0xF
  | .subnReg x _ => r = x ∨ r = 0xF
  | .shl x _ => r = x ∨ r = 0xF
  | .rnd x _ => r = x
  | .drw _ _ _ => r = 0xF
  | .ldVxDt x => r = x
  | .addI _ => c.quirkAddIVf = true ∧ r = 0xF
  | .ldRegs x => r.toNat ≤ x.toNat
  | _ => False

/-- How many bytes from I an instruction stores (R39, R103, R104). -/
def storeLength : Instr → Nat
  | .ldB _ => 3
  | .stRegs x => x.toNat + 1
  | _ => 0

/-- The execute-stage fault of an instruction (R66, R67, R36); `s` is the state it executes in. -/
def executeCause (i : Instr) (s : State) : FaultCode :=
  match i with
  | .ret => if s.sp = 0 then .stackUnderflow else .none
  | .call _ => if s.sp = 16 then .stackOverflow else .none
  | .drw _ _ n => if s.blockFaults s.i.toNat n.toNat then .addressFault else .none
  | .ldB _ => if s.blockFaults s.i.toNat 3 then .addressFault else .none
  | .stRegs x => if s.blockFaults s.i.toNat (x.toNat + 1) then .addressFault else .none
  | .ldRegs x => if s.blockFaults s.i.toNat (x.toNat + 1) then .addressFault else .none
  | _ => .none

/-- The fault of a cycle at `s`, in the order of R148: fetch, decode, execute. -/
def cycleCause (s : State) : FaultCode :=
  match s.fetch with
  | none => .addressFault
  | some op =>
    match decode op with
    | .error _ => .unknownOpcode
    | .ok i => executeCause i s

/-- `DRW Vx, Vy, n` toggles the pixel in row `py`, column `px` (R113): some sprite bit that is 1 lands on it. -/
def State.toggles (s : State) (x y n : Nibble) (py : Fin 32) (px : Fin 64) : Prop :=
  ∃ r c : Nat, r < n.toNat ∧ c < 8 ∧ (s.memRead (s.i.toNat + r)).getLsbD (7 - c) = true ∧
    (if s.cfg.quirkDrawWrap then
      ((s.getV x).toNat % 64 + c) % 64 = px.val ∧ ((s.getV y).toNat % 32 + r) % 32 = py.val
     else (s.getV x).toNat % 64 + c = px.val ∧ (s.getV y).toNat % 32 + r = py.val)

/-- The parked state of R173, the model's END_OF_RUN (log 16): a self-jump is next. -/
def State.parked (s : State) : Bool :=
  s.run = .running ∧ s.wait = false ∧ s.pc.toNat ≤ 0x0FFF ∧ s.fetch = some (0x1000 + s.pc)

/-- A safe state: no fatal fault has halted CORE (R146, R147). -/
def State.safe (s : State) : Bool := s.run ≠ .halted

/-- A safe run: after each of `k` operations CORE is not halted. -/
def safeRun : Nat → State → Bool
  | 0, s => s.safe
  | k + 1, s =>
    s.safe &&
    match step s with
    | .next t => safeRun k t
    | .fault _ => false
    | .refused _ => false

end Sys2Proof.Machine
end

