-- ==== Sys2Proof/Certificates/Slice0/Obligations.lean ====
section
/-! DEFINITION. The statements for the provers, from the numbered rules of spec/. In every statement
about `exec` the state is the one R58 executes in: PC holds a + 2, `a` the address of the instruction. A fault
clause therefore writes `a` as PC - 2 and the opcode as the instruction's word (log 11).
The encodings are those of R52's table, which the spec supplies from general knowledge
(93_implementation_defined.md G1). Where a rule rests on a decision D<n> of 92_eei_decisions.md, the spec's
own choice, the docstring names it. -/

open Sys2Proof Sys2Proof.Machine

/-! Encoding (30_encoding.md) -/

/-- Every instruction, at every operand value, is what its word decodes to (R47, R50, R52). -/
def Obligations.EncodedInstructionDecodesBack : Prop :=
  ∀ i : Instr, decode (encode i) = .ok i

/-- A word that decodes is the word of the instruction it decodes to: no bit is dropped, `y` of 8xy6 and 8xyE
included (R49, R50, R52). -/
def Obligations.DecodedWordEncodesBack : Prop :=
  ∀ (op : Word) (i : Instr), decode op = .ok i → encode i = op

/-- Decode accepts exactly the words that a (match, mask) row of R52 covers, and calls every other word
Unknown (R50, R52, R53, R54, R55). -/
def Obligations.DecodeAcceptsExactlyTheTable : Prop :=
  ∀ op : Word, (wellFormedWord op = true → ∃ i, decode op = .ok i) ∧
    (wellFormedWord op = false → decode op = .error (.unknown op))

/-- Ten words written out from R52, at least one per family of the table (control flow, registers, index and
memory, display, keypad, timers, random), decode to the instruction they stand for, and 0x5001 is Unknown
(R52, R55). -/
def Obligations.SpecExampleWordsDecode : Prop :=
  decode 0x00E0 = .ok .cls ∧ decode 0x00EE = .ok .ret ∧ decode 0x1234 = .ok (.jp 0x234) ∧
  decode 0x8456 = .ok (.shr 4 5) ∧ decode 0xD015 = .ok (.drw 0 1 5) ∧ decode 0xE0A1 = .ok (.sknp 0) ∧
  decode 0xF30A = .ok (.ldVxK 3) ∧ decode 0xC30F = .ok (.rnd 3 0x0F) ∧ decode 0xF165 = .ok (.ldRegs 1) ∧
  decode 0xF207 = .ok (.ldVxDt 2) ∧ decode 0x5001 = .error (.unknown 0x5001)

/-! The Step operation (30_encoding.md R56 to R59, 20_memory.md R35) -/

/-- Two byte reads (R35; D37 for each byte through EA, D6 for FAULT), the byte at the lower address the more
significant, the second address (PC + 1) mod 65536; under FAULT a fetch that reaches above 0xFFF raises
AddressFault. -/
def Obligations.FetchReadsTwoBytesBigEndian : Prop :=
  ∀ s : State,
    (s.cfg.addrPolicy = .mask ∨ s.pc.toNat ≤ 0xFFE →
      ∃ op, s.fetch = some op ∧
        op.toNat = 256 * (s.memRead s.pc.toNat).toNat + (s.memRead ((s.pc.toNat + 1) % 65536)).toNat) ∧
    (s.cfg.addrPolicy = .fault ∧ s.pc.toNat ≥ 0xFFF → s.fetch = none)

/-- R58: when the word at PC decodes to an instruction, a Step is that instruction's execution at the state
with PC advanced by 2. With a Step in the schedule (the model's own field, log 3) the operation leaves the
schedule and its `rnd` is in place for that Step alone (log 2). -/
def Obligations.StepRunsTheDecodedInstruction : Prop :=
  (∀ (s : State) (op : Word) (i : Instr), s.Fetches op → decode op = .ok i →
    step s = exec i { s with pc := s.pc + 2 }) ∧
  (∀ (s : State) (op : Word) (i : Instr) (r : Byte) (rest : List Op), s.run = .running → s.wait = false →
    s.env.schedule = .step r :: rest → s.fetch = some op → decode op = .ok i →
    step s = mapNext (fun t => { t with env := { t.env with rndArg := none } })
      (exec i { s with pc := s.pc + 2, env := { s.env with schedule := rest, rndArg := some r } }))

/-- A word that no row of R52 covers (R142; D5, D30) halts CORE with UnknownOpcode, the word as fetched and
the address it was fetched from. -/
def Obligations.UnknownWordHaltsWithItsAddress : Prop :=
  ∀ (s : State) (op : Word), s.Fetches op → wellFormedWord op = false →
    ∃ t, step s = .next t ∧ t.run = .halted ∧ t.fcode = .unknownOpcode ∧ t.fop = op ∧ t.fpc = s.pc ∧
      t.pc = s.pc + 2 ∧ OnlyChanges [.faults, .pc] s t

/-- A fetch that faults (ADDR_POLICY = FAULT, D6) halts CORE with AddressFault, PC left at a and FOP 0 (R140,
R145, R146; D30). -/
def Obligations.FaultingFetchLeavesPc : Prop :=
  ∀ s : State, s.run = .running → s.wait = false → s.env.schedule = [] → s.cfg.addrPolicy = .fault →
    s.pc.toNat ≥ 0xFFF → ∃ t, step s = .next t ∧ HaltedBy .addressFault s.pc 0 s t

/-- Every operation in every state answers a next state, and no operation changes a parameter (R4, R59; that
faults and refusals are next states is the model's form, log 5). -/
def Obligations.EveryOperationAnswersNext : Prop :=
  ∀ s : State, ∃ t, step s = .next t ∧ t.cfg = s.cfg

/-- The byte `rnd` is used by Cxkk only (R58; that it may be absent is the model's, log 2); every other
instruction does the same whatever it is. -/
def Obligations.OnlyRndReadsTheRandomByte : Prop :=
  ∀ (i : Instr) (s : State) (r : Option Byte), (∀ x kk, i ≠ .rnd x kk) →
    exec i (s.setRndArg r) = mapNext (fun t => t.setRndArg r) (exec i s)

/-! Faults and run states (60_exceptions.md, 70_reset_and_hazards.md) -/

/-- Faults are precise (R146; D22, D30; an empty schedule means a Step, log 3): a Step of a RUNNING CORE that
ends HALTED has recorded the address and the opcode (0 when the fetch faulted), has left PC at a + 2 (a when
the fetch faulted), and has written nothing else. -/
def Obligations.FaultsArePrecise : Prop :=
  ∀ s t : State, s.run = .running → s.env.schedule = [] → step s = .next t → t.run = .halted →
    t.fpc = s.pc ∧ t.fcode = cycleCause s ∧ OnlyChanges [.faults, .pc] s t ∧
    (∀ r, reply (.step r) s t = .fault t.fcode s.pc t.fop) ∧
    ((s.fetch = none ∧ t.fop = 0 ∧ t.pc = s.pc) ∨ (s.fetch = some t.fop ∧ t.pc = s.pc + 2))

/-- Which fault a Step raises, in the order fetch, decode, execute, and that it raises none otherwise (R140,
R148; an empty schedule means a Step, log 3). -/
def Obligations.FaultOrderIsFetchDecodeExecute : Prop :=
  ∀ s t : State, s.run = .running → s.wait = false → s.env.schedule = [] → step s = .next t →
    (cycleCause s ≠ .none → t.run = .halted ∧ t.fcode = cycleCause s) ∧
    (cycleCause s = .none → t.run = .running ∧ t.fcode = s.fcode)

/-- HALTED is sticky (R147; D22, D26; that the refused Step is a next state is the model's, log 5). A Step
changes nothing and replies the same fault; Tick and the key events act as usual; only a successful Reset
leaves it, and that clears FCODE, FPC and FOP. -/
def Obligations.HaltedIsStickyUntilReset : Prop :=
  ∀ s : State, s.run = .halted →
    (coreStep s = .next s ∧ ∀ r, reply (.step r) s s = .fault s.fcode s.fpc s.fop) ∧
    (∃ t, perform .tick s = .next t ∧ OnlyChanges [.dt, .st] s t ∧ t.dt.toNat = s.dt.toNat - 1 ∧ t.st.toNat = s.st.toNat - 1) ∧
    (∀ k, ∃ t, perform (.keyPress k) s = .next t ∧ t.keyDown k = true ∧ t.run = .halted) ∧
    (∀ k, ∃ t, perform (.keyRelease k) s = .next t ∧ t.keyDown k = false ∧ t.run = .halted) ∧
    (∀ o t, perform o s = .next t → t.run ≠ .halted → ∃ rom, o = .reset rom ∧ rom.length ≤ 3584) ∧
    (∀ rom, rom.length ≤ 3584 → ∃ t, perform (.reset rom) s = .next t ∧ t.run = .running ∧
      t.fcode = .none ∧ t.fpc = 0 ∧ t.fop = 0)

/-- Before the first successful Reset every operation but Reset changes nothing and replies `refused`, and
only a successful Reset leaves UNLOADED (R56, R166; D23; a refusal as a next state is the model's, log 5). -/
def Obligations.UnloadedRefusesAllButReset : Prop :=
  ∀ s : State, s.run = .unloaded → s.env.rndArg = none →
    (∀ o, (∀ rom, o ≠ .reset rom) → perform o s = .next s ∧ reply o s s = .refused) ∧
    (∀ o t, perform o s = .next t → t.run ≠ .unloaded → ∃ rom, o = .reset rom ∧ rom.length ≤ 3584)

/-- Reset (R160, R162; D17, D20, D22; the parameters stay, log 14): a ROM of at most 3584 bytes is accepted;
every register is cleared, memory holds the font, the ROM and zeros, PC is 0x200 and CORE is RUNNING. -/
def Obligations.ResetLoadsTheRom : Prop :=
  ∀ (s : State) (rom : List Byte), rom.length ≤ 3584 →
    ∃ t, perform (.reset rom) s = .next t ∧ reply (.reset rom) s t = .ok ∧
      (∀ r, t.getV r = 0) ∧ t.i = 0 ∧ (∀ j : Fin 16, t.stack[j] = 0) ∧ t.sp.val = 0 ∧ t.dt = 0 ∧ t.st = 0 ∧
      (∀ y x, t.pixel y x = false) ∧ (∀ k, t.keyDown k = false) ∧
      t.wait = false ∧ t.waitReg = 0 ∧ t.kevt = false ∧ t.kcode = 0 ∧
      t.pc = 0x200 ∧ t.run = .running ∧ t.fcode = .none ∧ t.fpc = 0 ∧ t.fop = 0 ∧
      (∀ (j : Nat) (h : j < rom.length), t.memRead (0x200 + j) = rom[j]) ∧
      (∀ j : Fin 80, t.memRead (s.cfg.fontBase.val + j.val) = s.cfg.font[j]) ∧
      (∀ a < 4096, ¬ (0x200 ≤ a ∧ a < 0x200 + rom.length) →
        ¬ (s.cfg.fontBase.val ≤ a ∧ a < s.cfg.fontBase.val + 80) → t.memRead a = 0)

/-- A longer ROM writes nothing at all (R161; D24), and the error goes to the caller. -/
def Obligations.OverlongRomChangesNothing : Prop :=
  ∀ (s : State) (rom : List Byte), rom.length > 3584 →
    perform (.reset rom) s = .next s ∧ reply (.reset rom) s s = .invalidRom rom.length

/-- Nothing of CORE survives a successful Reset: two states with the same parameters and the same environment
become equal, whatever their run states (R164; that Reset leaves the parameters and the environment is the
model's, log 14). -/
def Obligations.NothingSurvivesReset : Prop :=
  ∀ (s t : State) (rom : List Byte), rom.length ≤ 3584 → s.cfg = t.cfg → s.env = t.env →
    perform (.reset rom) s = perform (.reset rom) t

/-! Invariants -/

/-- Every operation keeps the invariant: canonical memory, KEVT only with WAIT, the fault registers as R21 and
R140 say (R20, R21, R22, R140, R145). -/
def Obligations.EveryOperationKeepsTheInvariant : Prop :=
  ∀ s t : State, s.Inv → step s = .next t → t.Inv

/-- The state after Reset meets the invariant. -/
def Obligations.ResetMeetsTheInvariant : Prop := State.reset.Inv

/-- The state after Reset has the values of R24's table for the empty ROM (R10 to R22, R24, R162); that the
model's reset state is the one after Reset with the empty ROM and default parameters is its choice (log 1, log
4). -/
def Obligations.ResetValuesAreThoseOfTheTable : Prop :=
  (∀ r, State.reset.getV r = 0) ∧ State.reset.i = 0 ∧ State.reset.pc = 0x200 ∧ State.reset.sp.val = 0 ∧
  (∀ j : Fin 16, State.reset.stack[j] = 0) ∧ State.reset.dt = 0 ∧ State.reset.st = 0 ∧
  (∀ y x, State.reset.pixel y x = false) ∧ (∀ k, State.reset.keyDown k = false) ∧
  State.reset.wait = false ∧ State.reset.kevt = false ∧ State.reset.waitReg = 0 ∧ State.reset.kcode = 0 ∧
  State.reset.run = .running ∧ State.reset.fcode = .none ∧ State.reset.fpc = 0 ∧ State.reset.fop = 0 ∧
  (∀ j : Fin 80, State.reset.memRead (0x50 + j.val) = Config.defaultFont[j]) ∧
  (∀ a < 4096, ¬ (0x50 ≤ a ∧ a < 0xA0) → State.reset.memRead a = 0)

/-- The frame of all 34 instructions: when an instruction does not fault, it changes only the parts its rule
names, only the V registers R12 and R49 allow, and only the bytes it stores from I (R12, R39, R49). That
WAITREG and KCODE keep values that mean nothing is the model's (log 18). -/
def Obligations.FrameOfEveryInstruction : Prop :=
  ∀ (i : Instr) (s t : State), Memory.wf s.cfg s.mem → executeCause i s = .none → exec i s = .next t →
    OnlyChanges (writesParts i) s t ∧
    (∀ r, ¬ writesV s.cfg r i → t.getV r = s.getV r) ∧
    (∀ a, (∀ j < storeLength i, wrapAddr (s.i.toNat + j) ≠ wrapAddr a) → t.memRead a = s.memRead a)

/-- The devices and the stack have only their own instructions: no instruction writes KEYS or a parameter; FB,
the stack, the timers, I and memory change only by the instructions named (R13, R16, R17, R18, R19, R39,
R136). -/
def Obligations.OnlyTheirInstructionsWriteTheDevices : Prop :=
  ∀ (i : Instr) (s t : State), exec i s = .next t →
    t.keys = s.keys ∧ t.cfg = s.cfg ∧
    (t.fb ≠ s.fb → i = .cls ∨ ∃ x y n, i = .drw x y n) ∧
    (t.stack ≠ s.stack → ∃ nnn, i = .call nnn) ∧
    (t.sp ≠ s.sp → i = .ret ∨ ∃ nnn, i = .call nnn) ∧
    (t.dt ≠ s.dt → ∃ x, i = .ldDtVx x) ∧
    (t.st ≠ s.st → ∃ x, i = .ldStVx x) ∧
    (t.i ≠ s.i → (∃ nnn, i = .ldI nnn) ∨ (∃ x, i = .addI x) ∨ ∃ x, i = .ldF x) ∧
    (t.mem ≠ s.mem → (∃ x, i = .ldB x) ∨ ∃ x, i = .stRegs x)

/-! Memory (20_memory.md) -/

/-- A byte written is the byte read back, through the effective address, every other address keeps its byte,
and writing the byte already there changes nothing (R34). -/
def Obligations.ByteWriteChangesExactlyOneByte : Prop :=
  ∀ (s : State) (a : Nat), Memory.wf s.cfg s.mem →
    (∀ (b : Byte) (q : Nat), (s.memWrite a b).memRead q = if q % 4096 = a % 4096 then b else s.memRead q) ∧
    s.memWrite a (s.memRead a) = s

/-- Two memories in the canonical form that read alike at all 4096 addresses are the same data: the form holds
nothing but the byte array of R22. -/
def Obligations.MemoriesThatReadAlikeAreEqual : Prop :=
  ∀ (c : Config) (m m' : Memory), Memory.wf c m → Memory.wf c m' →
    (∀ a < 4096, Memory.read c m a = Memory.read c m' a) → m = m'

/-- A byte stored by Fx33 is seen by the very next fetch, with nothing in between (R42; D29). -/
def Obligations.StoredBytesAreSeenByTheNextFetch : Prop :=
  ∀ (s : State) (x : Nibble), Memory.wf s.cfg s.mem → s.i = s.pc → s.pc.toNat ≤ 0xFFD →
    ∃ t op, exec (.ldB x) s = .next t ∧ t.fetch = some op ∧
      op.toNat = 256 * ((s.getV x).toNat / 100) + (s.getV x).toNat / 10 % 10

/-! Control flow (40_control_flow.md) -/

/-- R65: PC takes the address in the instruction. -/
def Obligations.JpSetsPc : Prop :=
  (∀ nnn : Addr12, decode (0x1#4 ++ nnn) = .ok (.jp nnn)) ∧
  ∀ (s : State) (nnn : Addr12), ∃ t, exec (.jp nnn) s = .next t ∧ OnlyChanges [.pc] s t ∧ t.pc.toNat = nnn.toNat

/-- CALL (R66, R143, R146; D22, D30, log 11): PC, the address of the next instruction, is pushed; at SP = 16
it is a StackOverflow. -/
def Obligations.CallPushesOrOverflows : Prop :=
  (∀ nnn : Addr12, decode (0x2#4 ++ nnn) = .ok (.call nnn)) ∧
  ∀ (s : State) (nnn : Addr12),
    (s.sp.val < 16 → ∃ t, exec (.call nnn) s = .next t ∧ OnlyChanges [.pc, .stack] s t ∧ t.pc.toNat = nnn.toNat ∧
      t.sp.val = s.sp.val + 1 ∧ ∀ j : Fin 16, t.stack[j] = if j.val = s.sp.val then s.pc else s.stack[j]) ∧
    (s.sp.val = 16 → ∃ t, exec (.call nnn) s = .next t ∧ HaltedBy .stackOverflow (s.pc - 2) (0x2#4 ++ nnn) s t)

/-- RET (R67, R144, R146; D22, D30, log 11): PC takes the most recent push; at SP = 0 it is a StackUnderflow.
-/
def Obligations.RetPopsOrUnderflows : Prop :=
  decode 0x00EE = .ok .ret ∧
  ∀ s : State,
    (∀ j : Fin 16, s.sp.val = j.val + 1 → ∃ t, exec .ret s = .next t ∧ OnlyChanges [.pc, .stack] s t ∧
      t.pc = s.stack[j] ∧ t.sp.val = j.val ∧ t.stack = s.stack) ∧
    (s.sp.val = 0 → ∃ t, exec .ret s = .next t ∧ HaltedBy .stackUnderflow (s.pc - 2) 0x00EE s t)

/-- A call and then a return restore PC to the instruction after the call, and the depth, and leave everything
else as it was but the one dead stack entry (R16, R66, R67). -/
def Obligations.CallThenReturnRoundTrip : Prop :=
  ∀ (s : State) (nnn : Addr12), s.sp.val < 16 →
    ∃ t u, exec (.call nnn) s = .next t ∧ exec .ret t.advance = .next u ∧
      u.pc = s.pc ∧ u.sp = s.sp ∧ OnlyChanges [.stack] s u ∧
      ∀ j : Fin 16, j.val ≠ s.sp.val → u.stack[j] = s.stack[j]

/-- The offset register is V0 (R68; D3, D13); PC keeps the 16-bit sum and VF is not written. -/
def Obligations.JpV0AddsV0 : Prop :=
  (∀ nnn : Addr12, decode (0xB#4 ++ nnn) = .ok (.jpV0 nnn)) ∧
  ∀ (s : State) (nnn : Addr12), ∃ t, exec (.jpV0 nnn) s = .next t ∧ OnlyChanges [.pc] s t ∧
    t.pc.toNat = (nnn.toNat + (s.getV 0).toNat) % 65536

/-- R69, R70: the skips that compare with an immediate. -/
def Obligations.ImmediateSkips : Prop :=
  (∀ (x : Nibble) (kk : Byte), decode (0x3#4 ++ x ++ kk) = .ok (.seImm x kk) ∧
    decode (0x4#4 ++ x ++ kk) = .ok (.sneImm x kk)) ∧
  ∀ (s : State) (x : Nibble) (kk : Byte),
    (∃ t, exec (.seImm x kk) s = .next t ∧ OnlyChanges [.pc] s t ∧
      t.pc.toNat = if s.getV x = kk then (s.pc.toNat + 2) % 65536 else s.pc.toNat) ∧
    (∃ t, exec (.sneImm x kk) s = .next t ∧ OnlyChanges [.pc] s t ∧
      t.pc.toNat = if s.getV x = kk then s.pc.toNat else (s.pc.toNat + 2) % 65536)

/-- R71, R72: the skips that compare two registers; a low nibble other than 0 is Unknown. -/
def Obligations.RegisterSkips : Prop :=
  (∀ x y n : Nibble,
    (decode (0x5#4 ++ x ++ y ++ n) = if n = 0 then .ok (.seReg x y) else .error (.unknown (0x5#4 ++ x ++ y ++ n))) ∧
    (decode (0x9#4 ++ x ++ y ++ n) = if n = 0 then .ok (.sneReg x y) else .error (.unknown (0x9#4 ++ x ++ y ++ n)))) ∧
  ∀ (s : State) (x y : Nibble),
    (∃ t, exec (.seReg x y) s = .next t ∧ OnlyChanges [.pc] s t ∧
      t.pc.toNat = if s.getV x = s.getV y then (s.pc.toNat + 2) % 65536 else s.pc.toNat) ∧
    (∃ t, exec (.sneReg x y) s = .next t ∧ OnlyChanges [.pc] s t ∧
      t.pc.toNat = if s.getV x = s.getV y then s.pc.toNat else (s.pc.toNat + 2) % 65536)

/-- From a parked state (R173's self-jump, the model's END_OF_RUN, log 16) a Step leaves the whole state
unchanged (R65, R173). -/
def Obligations.ParkedStateIsAFixedPoint : Prop :=
  ∀ s : State, s.parked = true → s.env.schedule = [] → step s = .next s

/-! Register operations (41_register_ops.md) -/

/-- R80: V[x] takes the immediate. -/
def Obligations.LdImmLoads : Prop :=
  (∀ (x : Nibble) (kk : Byte), decode (0x6#4 ++ x ++ kk) = .ok (.ldImm x kk)) ∧
  ∀ (s : State) (x : Nibble) (kk : Byte), ∃ t, exec (.ldImm x kk) s = .next t ∧ OnlyChanges [.v] s t ∧
    ∀ r, t.getV r = if r = x then kk else s.getV r

/-- R81: the sum modulo 256, and no carry flag: VF changes only as the named destination. -/
def Obligations.AddImmHasNoCarryFlag : Prop :=
  (∀ (x : Nibble) (kk : Byte), decode (0x7#4 ++ x ++ kk) = .ok (.addImm x kk)) ∧
  ∀ (s : State) (x : Nibble) (kk : Byte), ∃ t, exec (.addImm x kk) s = .next t ∧ OnlyChanges [.v] s t ∧
    ∀ r, (t.getV r).toNat = if r = x then ((s.getV x).toNat + kk.toNat) % 256 else (s.getV r).toNat

/-- R82. -/
def Obligations.LdRegCopies : Prop :=
  (∀ x y : Nibble, decode (0x8#4 ++ x ++ y ++ 0x0#4) = .ok (.ldReg x y)) ∧
  ∀ (s : State) (x y : Nibble), ∃ t, exec (.ldReg x y) s = .next t ∧ OnlyChanges [.v] s t ∧
    ∀ r, t.getV r = if r = x then s.getV y else s.getV r

/-- Bit by bit, VF unchanged unless it is the destination (R83, R84, R85; D11). -/
def Obligations.BitwiseOperations : Prop :=
  (∀ x y : Nibble, decode (0x8#4 ++ x ++ y ++ 0x1#4) = .ok (.orReg x y) ∧
    decode (0x8#4 ++ x ++ y ++ 0x2#4) = .ok (.andReg x y) ∧ decode (0x8#4 ++ x ++ y ++ 0x3#4) = .ok (.xorReg x y)) ∧
  ∀ (s : State) (x y : Nibble),
    (∃ t, exec (.orReg x y) s = .next t ∧ OnlyChanges [.v] s t ∧
      ∀ (r : Nibble) (b : Nat), (t.getV r).getLsbD b =
        if r = x then ((s.getV x).getLsbD b || (s.getV y).getLsbD b) else (s.getV r).getLsbD b) ∧
    (∃ t, exec (.andReg x y) s = .next t ∧ OnlyChanges [.v] s t ∧
      ∀ (r : Nibble) (b : Nat), (t.getV r).getLsbD b =
        if r = x then ((s.getV x).getLsbD b && (s.getV y).getLsbD b) else (s.getV r).getLsbD b) ∧
    (∃ t, exec (.xorReg x y) s = .next t ∧ OnlyChanges [.v] s t ∧
      ∀ (r : Nibble) (b : Nat), (t.getV r).getLsbD b =
        if r = x then ((s.getV x).getLsbD b ^^ (s.getV y).getLsbD b) else (s.getV r).getLsbD b)

/-- The 8-bit add (R86, R87; D12): the sum modulo 256 and VF = carry, VF written last (`x = 15` keeps the
flag, `y = 15` adds the old VF). -/
def Obligations.AddRegSetsCarry : Prop :=
  (∀ x y : Nibble, decode (0x8#4 ++ x ++ y ++ 0x4#4) = .ok (.addReg x y)) ∧
  ∀ (s : State) (x y : Nibble), ∃ t, exec (.addReg x y) s = .next t ∧ OnlyChanges [.v] s t ∧
    ∀ r, (t.getV r).toNat =
      if r = 0xF#4 then (if (s.getV x).toNat + (s.getV y).toNat > 255 then 1 else 0)
      else if r = x then ((s.getV x).toNat + (s.getV y).toNat) % 256 else (s.getV r).toNat

/-- The subtractions (R86, R88, R90; D12): the difference modulo 256 and VF = 1 exactly when there is no
borrow, VF written last. -/
def Obligations.SubtractionsSetNoBorrow : Prop :=
  (∀ x y : Nibble, decode (0x8#4 ++ x ++ y ++ 0x5#4) = .ok (.subReg x y) ∧
    decode (0x8#4 ++ x ++ y ++ 0x7#4) = .ok (.subnReg x y)) ∧
  ∀ (s : State) (x y : Nibble),
    (∃ t, exec (.subReg x y) s = .next t ∧ OnlyChanges [.v] s t ∧
      ∀ r, (t.getV r).toNat =
        if r = 0xF#4 then (if (s.getV x).toNat ≥ (s.getV y).toNat then 1 else 0)
        else if r = x then ((s.getV x).toNat + 256 - (s.getV y).toNat) % 256 else (s.getV r).toNat) ∧
    (∃ t, exec (.subnReg x y) s = .next t ∧ OnlyChanges [.v] s t ∧
      ∀ r, (t.getV r).toNat =
        if r = 0xF#4 then (if (s.getV y).toNat ≥ (s.getV x).toNat then 1 else 0)
        else if r = x then ((s.getV y).toNat + 256 - (s.getV x).toNat) % 256 else (s.getV r).toNat)

/-- The shifts (R86, R89, R91; D9, D12): V[x] shifted in place by one, VF = the bit shifted out, V[y] neither
read nor written. -/
def Obligations.ShiftsMoveTheBitToVf : Prop :=
  (∀ x y : Nibble, decode (0x8#4 ++ x ++ y ++ 0x6#4) = .ok (.shr x y) ∧
    decode (0x8#4 ++ x ++ y ++ 0xE#4) = .ok (.shl x y)) ∧
  ∀ (s : State) (x y : Nibble),
    (∃ t, exec (.shr x y) s = .next t ∧ OnlyChanges [.v] s t ∧
      ∀ r, (t.getV r).toNat =
        if r = 0xF#4 then (s.getV x).toNat % 2 else if r = x then (s.getV x).toNat / 2 else (s.getV r).toNat) ∧
    (∃ t, exec (.shl x y) s = .next t ∧ OnlyChanges [.v] s t ∧
      ∀ r, (t.getV r).toNat =
        if r = 0xF#4 then (s.getV x).toNat / 128 else if r = x then 2 * (s.getV x).toNat % 256 else (s.getV r).toNat)

/-! Index register and memory (42_memory_ops.md) -/

/-- R100: I takes the address in the instruction. -/
def Obligations.LdISetsI : Prop :=
  (∀ nnn : Addr12, decode (0xA#4 ++ nnn) = .ok (.ldI nnn)) ∧
  ∀ (s : State) (nnn : Addr12), ∃ t, exec (.ldI nnn) s = .next t ∧ OnlyChanges [.i] s t ∧ t.i.toNat = nnn.toNat

/-- I plus V[x] (R101; D14): I modulo 65536; VF is written only under QUIRK_ADD_I_VF, with whether I + V[x] is
above 0x0FFF. -/
def Obligations.AddIFollowsTheQuirk : Prop :=
  (∀ x : Nibble, decode (0xF#4 ++ x ++ 0x1E#8) = .ok (.addI x)) ∧
  ∀ (s : State) (x : Nibble), ∃ t, exec (.addI x) s = .next t ∧ OnlyChanges [.i, .v] s t ∧
    t.i.toNat = (s.i.toNat + (s.getV x).toNat) % 65536 ∧
    ∀ r, (t.getV r).toNat =
      if s.cfg.quirkAddIVf = true ∧ r = 0xF#4 then (if s.i.toNat + (s.getV x).toNat > 0x0FFF then 1 else 0)
      else (s.getV r).toNat

/-- Fx29 (R102; D3, D17): the glyph address of the low nibble, for every FONT_BASE. -/
def Obligations.LdFPointsAtTheGlyph : Prop :=
  (∀ x : Nibble, decode (0xF#4 ++ x ++ 0x29#8) = .ok (.ldF x)) ∧
  ∀ (s : State) (x : Nibble), ∃ t, exec (.ldF x) s = .next t ∧ OnlyChanges [.i] s t ∧
    t.i.toNat = s.cfg.fontBase.val + 5 * ((s.getV x).toNat % 16)

/-- Fx33 (R103, R36; D6, D18, D38, log 11): hundreds, tens and ones at I, I + 1, I + 2, each through EA, and
no other byte; under FAULT a range above 0xFFF is an AddressFault that writes nothing. -/
def Obligations.LdBStoresTheDigits : Prop :=
  (∀ x : Nibble, decode (0xF#4 ++ x ++ 0x33#8) = .ok (.ldB x)) ∧
  ∀ (s : State) (x : Nibble), Memory.wf s.cfg s.mem →
    (s.cfg.addrPolicy = .mask ∨ s.i.toNat + 2 ≤ 0xFFF →
      ∃ t, exec (.ldB x) s = .next t ∧ OnlyChanges [.mem] s t ∧
        (t.memRead s.i.toNat).toNat = (s.getV x).toNat / 100 ∧
        (t.memRead (s.i.toNat + 1)).toNat = (s.getV x).toNat / 10 % 10 ∧
        (t.memRead (s.i.toNat + 2)).toNat = (s.getV x).toNat % 10 ∧
        ∀ a, (∀ j < 3, (s.i.toNat + j) % 4096 ≠ a % 4096) → t.memRead a = s.memRead a) ∧
    (s.cfg.addrPolicy = .fault ∧ s.i.toNat + 2 > 0xFFF →
      ∃ t, exec (.ldB x) s = .next t ∧ HaltedBy .addressFault (s.pc - 2) (0xF#4 ++ x ++ 0x33#8) s t)

/-- Fx55 (R104, R36; D6, D10, D38, log 11): V[0]..V[x] at I..I + x, each through EA, and no other byte; I is
kept; under FAULT a range above 0xFFF is an AddressFault that writes nothing. -/
def Obligations.StRegsStoresTheBlock : Prop :=
  (∀ x : Nibble, decode (0xF#4 ++ x ++ 0x55#8) = .ok (.stRegs x)) ∧
  ∀ (s : State) (x : Nibble), Memory.wf s.cfg s.mem →
    (s.cfg.addrPolicy = .mask ∨ s.i.toNat + x.toNat ≤ 0xFFF →
      ∃ t, exec (.stRegs x) s = .next t ∧ OnlyChanges [.mem] s t ∧
        (∀ j : Nibble, j.toNat ≤ x.toNat → t.memRead (s.i.toNat + j.toNat) = s.getV j) ∧
        ∀ a, (∀ j ≤ x.toNat, (s.i.toNat + j) % 4096 ≠ a % 4096) → t.memRead a = s.memRead a) ∧
    (s.cfg.addrPolicy = .fault ∧ s.i.toNat + x.toNat > 0xFFF →
      ∃ t, exec (.stRegs x) s = .next t ∧ HaltedBy .addressFault (s.pc - 2) (0xF#4 ++ x ++ 0x55#8) s t)

/-- Fx65 (R105, R36; D6, D10, D38, log 11): V[0]..V[x] from I..I + x, the other registers kept; I is kept;
under FAULT a range above 0xFFF is an AddressFault that writes nothing. -/
def Obligations.LdRegsLoadsTheBlock : Prop :=
  (∀ x : Nibble, decode (0xF#4 ++ x ++ 0x65#8) = .ok (.ldRegs x)) ∧
  ∀ (s : State) (x : Nibble),
    (s.cfg.addrPolicy = .mask ∨ s.i.toNat + x.toNat ≤ 0xFFF →
      ∃ t, exec (.ldRegs x) s = .next t ∧ OnlyChanges [.v] s t ∧
        ∀ r, t.getV r = if r.toNat ≤ x.toNat then s.memRead (s.i.toNat + r.toNat) else s.getV r) ∧
    (s.cfg.addrPolicy = .fault ∧ s.i.toNat + x.toNat > 0xFFF →
      ∃ t, exec (.ldRegs x) s = .next t ∧ HaltedBy .addressFault (s.pc - 2) (0xF#4 ++ x ++ 0x65#8) s t)

/-! Display (43_display.md) -/

/-- R112: every pixel is off afterwards. -/
def Obligations.ClsClearsTheScreen : Prop :=
  decode 0x00E0 = .ok .cls ∧
  ∀ s : State, ∃ t, exec .cls s = .next t ∧ OnlyChanges [.fb] s t ∧ ∀ y x, t.pixel y x = false

/-- Dxyn (R113, R36; D6, D15, D16, D33, D38, log 11): exactly the pixels on which a sprite bit 1 lands
(clipped or wrapped by QUIRK_DRAW_WRAP) are inverted, VF is 1 exactly when one of them was on, and nothing
else changes; under FAULT a non-empty range above 0xFFF is an AddressFault that writes nothing. -/
def Obligations.DrwXorsTheSprite : Prop :=
  (∀ x y n : Nibble, decode (0xD#4 ++ x ++ y ++ n) = .ok (.drw x y n)) ∧
  ∀ (s : State) (x y n : Nibble),
    (s.cfg.addrPolicy = .mask ∨ n = 0 ∨ s.i.toNat + n.toNat ≤ 0x1000 →
      ∃ t, exec (.drw x y n) s = .next t ∧ OnlyChanges [.fb, .v] s t ∧
        (∀ py px, s.toggles x y n py px → t.pixel py px = !s.pixel py px) ∧
        (∀ py px, ¬ s.toggles x y n py px → t.pixel py px = s.pixel py px) ∧
        (∀ r, r ≠ 0xF#4 → t.getV r = s.getV r) ∧
        ((∃ py px, s.toggles x y n py px ∧ s.pixel py px = true) → t.getV 0xF#4 = 1) ∧
        ((∀ py px, s.toggles x y n py px → s.pixel py px = false) → t.getV 0xF#4 = 0)) ∧
    (s.cfg.addrPolicy = .fault ∧ n ≠ 0 ∧ s.i.toNat + n.toNat > 0x1000 →
      ∃ t, exec (.drw x y n) s = .next t ∧ HaltedBy .addressFault (s.pc - 2) (0xD#4 ++ x ++ y ++ n) s t)

/-- Two draws with the same V[x], V[y], I, height and sprite bytes leave FB as it was, and the second sets VF
exactly when the sprite toggles a pixel that is off before the first, or one that is on after it (R114 (1),
(3); 90_conflicts.md C2). -/
def Obligations.DrawingTwiceRestoresTheScreen : Prop :=
  ∀ (s t s' u : State) (x y n : Nibble), executeCause (.drw x y n) s = .none →
    exec (.drw x y n) s = .next t →
    s'.fb = t.fb → s'.getV x = s.getV x → s'.getV y = s.getV y → s'.i = s.i → s'.cfg = s.cfg →
    (∀ a, s'.memRead a = s.memRead a) → exec (.drw x y n) s' = .next u →
    (∀ py px, u.pixel py px = s.pixel py px) ∧
    (u.getV 0xF#4 = 1 ↔ ∃ py px, s.toggles x y n py px ∧ s.pixel py px = false)

/-- With clipping no pixel outside the rectangle of the sprite changes, and none is wrapped (R113, R114 (4)).
-/
def Obligations.ClippedDrawStaysInItsRectangle : Prop :=
  ∀ (s t : State) (x y n : Nibble), s.cfg.quirkDrawWrap = false → exec (.drw x y n) s = .next t →
    ∀ (py : Fin 32) (px : Fin 64), t.pixel py px ≠ s.pixel py px →
      (s.getV x).toNat % 64 ≤ px.val ∧ px.val < (s.getV x).toNat % 64 + 8 ∧
      (s.getV y).toNat % 32 ≤ py.val ∧ py.val < (s.getV y).toNat % 32 + n.toNat

/-! Keypad (44_input.md) -/

/-- KeyPress (R120, R166; D20): the flag of the key is set; the code is latched when CORE waits and has no
latched press, and the first press wins; nothing else changes. That WAITREG and KCODE keep their values while
they mean nothing is the model's (log 18; 93_implementation_defined.md U16). -/
def Obligations.KeyPressLatchesTheFirst : Prop :=
  ∀ (s : State) (k : Nibble),
    (s.run = .unloaded → perform (.keyPress k) s = .next s ∧ reply (.keyPress k) s s = .refused) ∧
    (s.run ≠ .unloaded → ∃ t, perform (.keyPress k) s = .next t ∧ reply (.keyPress k) s t = .ok ∧
      OnlyChanges [.keys, .waiting] s t ∧ (∀ q, t.keyDown q = if q = k then true else s.keyDown q) ∧
      t.wait = s.wait ∧ t.waitReg = s.waitReg ∧
      (s.wait = true ∧ s.kevt = false → t.kevt = true ∧ t.kcode = k) ∧
      (¬ (s.wait = true ∧ s.kevt = false) → t.kevt = s.kevt ∧ t.kcode = s.kcode))

/-- KeyRelease (R121, R166; D20): the flag of the key is cleared and nothing else changes; a latched press
stays. -/
def Obligations.KeyReleaseOnlyClearsTheFlag : Prop :=
  ∀ (s : State) (k : Nibble),
    (s.run = .unloaded → perform (.keyRelease k) s = .next s ∧ reply (.keyRelease k) s s = .refused) ∧
    (s.run ≠ .unloaded → ∃ t, perform (.keyRelease k) s = .next t ∧ reply (.keyRelease k) s t = .ok ∧
      OnlyChanges [.keys] s t ∧ ∀ q, t.keyDown q = if q = k then false else s.keyDown q)

/-- Ex9E and ExA1 (R122, R123; D19): the skips on a key level, the key being the low nibble of V[x]. -/
def Obligations.KeySkipsReadTheLevel : Prop :=
  (∀ x : Nibble, decode (0xE#4 ++ x ++ 0x9E#8) = .ok (.skp x) ∧ decode (0xE#4 ++ x ++ 0xA1#8) = .ok (.sknp x)) ∧
  ∀ (s : State) (x k : Nibble), k.toNat = (s.getV x).toNat % 16 →
    (∃ t, exec (.skp x) s = .next t ∧ OnlyChanges [.pc] s t ∧
      t.pc.toNat = if s.keyDown k = true then (s.pc.toNat + 2) % 65536 else s.pc.toNat) ∧
    (∃ t, exec (.sknp x) s = .next t ∧ OnlyChanges [.pc] s t ∧
      t.pc.toNat = if s.keyDown k = true then s.pc.toNat else (s.pc.toNat + 2) % 65536)

/-- Fx0A (R124; D20) only enters the suspension, PC back at the Fx0A, no event latched, V[x] not written. That
KCODE, which means nothing while KEVT = 0, keeps its value is the model's (log 18;
93_implementation_defined.md U16 allows any value). -/
def Obligations.WaitForKeySuspends : Prop :=
  (∀ x : Nibble, decode (0xF#4 ++ x ++ 0x0A#8) = .ok (.ldVxK x)) ∧
  ∀ (s : State) (x : Nibble), ∃ t, exec (.ldVxK x) s = .next t ∧ OnlyChanges [.pc, .waiting] s t ∧
    t.pc = s.pc - 2 ∧ t.wait = true ∧ t.waitReg = x ∧ t.kevt = false ∧ t.kcode = s.kcode

/-- Resumption (R125; D20): a Step while WAIT = 1 (the schedule empty, log 3) changes nothing without a
latched press, and with one stores its code, clears WAIT and KEVT and adds 2 to PC. That WAITREG and KCODE
keep the values that then mean nothing is the model's (log 18; 93_implementation_defined.md U16 allows any
value). -/
def Obligations.ResumptionNeedsALatchedPress : Prop :=
  ∀ s : State, s.run = .running → s.wait = true → s.env.schedule = [] →
    (s.kevt = false → step s = .next s) ∧
    (s.kevt = true → ∃ t, step s = .next t ∧ OnlyChanges [.v, .pc, .waiting] s t ∧
      (∀ r, (t.getV r).toNat = if r = s.waitReg then s.kcode.toNat else (s.getV r).toNat) ∧
      t.pc.toNat = (s.pc.toNat + 2) % 65536 ∧ t.wait = false ∧ t.kevt = false ∧
      t.waitReg = s.waitReg ∧ t.kcode = s.kcode)

/-- The keypad state machine (R126): a wait ends only by a Step with a latched press or by a successful Reset,
a press is latched only by KeyPress, and a wait begins only in a Step that executes Fx0A. -/
def Obligations.OnlyAKeyPressLiftsTheHold : Prop :=
  ∀ (o : Op) (s t : State), s.Inv → perform o s = .next t →
    (s.wait = true → t.wait = false → (∃ rom, o = .reset rom ∧ rom.length ≤ 3584) ∨ ((∃ r, o = .step r) ∧ s.kevt = true)) ∧
    (s.kevt = false → t.kevt = true → s.wait = true ∧ ∃ k, o = .keyPress k ∧ t.kcode = k) ∧
    (s.wait = false → t.wait = true → t.kevt = false ∧ (∃ r, o = .step r) ∧
      ∃ op x, s.fetch = some op ∧ decode op = .ok (.ldVxK x) ∧ t.waitReg = x ∧ t.pc = s.pc)

/-! Timers (45_timers.md) and the random instruction (46_random.md) -/

/-- R132, R133, R134: the moves between V[x] and the timers. -/
def Obligations.TimerMoves : Prop :=
  (∀ x : Nibble, decode (0xF#4 ++ x ++ 0x07#8) = .ok (.ldVxDt x) ∧
    decode (0xF#4 ++ x ++ 0x15#8) = .ok (.ldDtVx x) ∧ decode (0xF#4 ++ x ++ 0x18#8) = .ok (.ldStVx x)) ∧
  ∀ (s : State) (x : Nibble),
    (∃ t, exec (.ldVxDt x) s = .next t ∧ OnlyChanges [.v] s t ∧ ∀ r, t.getV r = if r = x then s.dt else s.getV r) ∧
    (∃ t, exec (.ldDtVx x) s = .next t ∧ OnlyChanges [.dt] s t ∧ t.dt = s.getV x) ∧
    (∃ t, exec (.ldStVx x) s = .next t ∧ OnlyChanges [.st] s t ∧ t.st = s.getV x ∧ (t.snd = true ↔ s.getV x ≠ 0))

/-- Tick (R135, R166; D26): each timer falls by 1 unless it is 0, and nothing else changes; refused while
UNLOADED. -/
def Obligations.TickCountsDown : Prop :=
  ∀ s : State,
    (s.run = .unloaded → perform .tick s = .next s ∧ reply .tick s s = .refused) ∧
    (s.run ≠ .unloaded → ∃ t, perform .tick s = .next t ∧ reply .tick s t = .ok ∧ OnlyChanges [.dt, .st] s t ∧
      t.dt.toNat = s.dt.toNat - 1 ∧ t.st.toNat = s.st.toNat - 1)

/-- After v Ticks and no other operation a timer that held v0 holds max(v0 - v, 0) (R136); the Ticks stand in
the model's own schedule (log 3), which is empty afterwards, and nothing else changes, in CORE or in the
environment. -/
def Obligations.ManyTicksReachZeroAndStay : Prop :=
  ∀ (v : Nat) (s : State), s.run ≠ .unloaded →
    ∃ t, Sys2Proof.core.run v (s.setSchedule (List.replicate v .tick)) = .next t ∧
      t.dt.toNat = s.dt.toNat - v ∧ t.st.toNat = s.st.toNat - v ∧
      t.env = { s.env with schedule := [] } ∧ OnlyChanges [.dt, .st, .env] s t

/-- Cxkk (R138; D21): V[x] is the byte `rnd` of the Step masked by the immediate, for every byte that the
schedule gives and for the free byte when it gives none (log 2); nothing else of CORE changes. -/
def Obligations.RndMasksTheRandomByte : Prop :=
  (∀ (x : Nibble) (kk : Byte), decode (0xC#4 ++ x ++ kk) = .ok (.rnd x kk)) ∧
  ∀ (s : State) (x : Nibble) (kk : Byte), ∃ t, exec (.rnd x kk) s = .next t ∧ OnlyChanges [.v, .env] s t ∧
    (∀ b, s.env.rndArg = some b → ∀ r, t.getV r = if r = x then b &&& kk else s.getV r) ∧
    (s.env.rndArg = none →
      ∀ r, t.getV r = if r = x then Config.freeRnd s.env.draws &&& kk else s.getV r)
end

