-- ==== Sys2Proof/Laws/Decode.lean ====
section
/-! SUPPORT. The fields of an assembled word (30_encoding.md R46 to R48), and the table of R52. -/

namespace Sys2Proof

/-- A bit of a slice of the word. -/
theorem slice_getLsbD (op : Word) (lo len i : Nat) (h : i < len) :
    (op.extractLsb' lo len).getLsbD i = op.getLsbD (lo + i) := by simp [h]

/-- The fields of a word of format NNN. -/
theorem fields_nnn (f : Nibble) (nnn : Addr12) : opFam (f ++ nnn) = f ∧ opNnn (f ++ nnn) = nnn := by
  constructor <;> apply BitVec.eq_of_getLsbD_eq <;> intro i hi
  · rw [opFam, slice_getLsbD _ _ _ _ hi, BitVec.getLsbD_append, if_neg (by omega)]
    congr 1; omega
  · rw [opNnn, slice_getLsbD _ _ _ _ hi, BitVec.getLsbD_append, if_pos (by omega)]
    congr 1; omega

/-- The fields of a word of format XKK or X. -/
theorem fields_xkk (f x : Nibble) (kk : Byte) :
    opFam (f ++ x ++ kk) = f ∧ opX (f ++ x ++ kk) = x ∧ opKk (f ++ x ++ kk) = kk := by
  refine ⟨?_, ?_, ?_⟩ <;> apply BitVec.eq_of_getLsbD_eq <;> intro i hi
  · rw [opFam, slice_getLsbD _ _ _ _ hi, BitVec.getLsbD_append, if_neg (by omega), BitVec.getLsbD_append, if_neg (by omega)]
    congr 1; omega
  · rw [opX, slice_getLsbD _ _ _ _ hi, BitVec.getLsbD_append, if_neg (by omega), BitVec.getLsbD_append, if_pos (by omega)]
    congr 1; omega
  · rw [opKk, slice_getLsbD _ _ _ _ hi, BitVec.getLsbD_append, if_pos (by omega)]
    congr 1; omega

/-- The fields of a word of format XY or XYN. -/
theorem fields_xyn (f x y n : Nibble) :
    opFam (f ++ x ++ y ++ n) = f ∧ opX (f ++ x ++ y ++ n) = x ∧ opY (f ++ x ++ y ++ n) = y ∧ opN (f ++ x ++ y ++ n) = n := by
  refine ⟨?_, ?_, ?_, ?_⟩ <;> apply BitVec.eq_of_getLsbD_eq <;> intro i hi
  · rw [opFam, slice_getLsbD _ _ _ _ hi, BitVec.getLsbD_append, if_neg (by omega), BitVec.getLsbD_append,
      if_neg (by omega), BitVec.getLsbD_append, if_neg (by omega)]
    congr 1; omega
  · rw [opX, slice_getLsbD _ _ _ _ hi, BitVec.getLsbD_append, if_neg (by omega), BitVec.getLsbD_append,
      if_neg (by omega), BitVec.getLsbD_append, if_pos (by omega)]
    congr 1; omega
  · rw [opY, slice_getLsbD _ _ _ _ hi, BitVec.getLsbD_append, if_neg (by omega), BitVec.getLsbD_append, if_pos (by omega)]
    congr 1; omega
  · rw [opN, slice_getLsbD _ _ _ _ hi, BitVec.getLsbD_append, if_pos (by omega)]
    congr 1; omega

/-- A word is its family and its address field (format NNN). -/
theorem word_nnn (op : Word) : opFam op ++ opNnn op = op := by
  apply BitVec.eq_of_getLsbD_eq; intro i hi
  rw [BitVec.getLsbD_append]
  split
  · next h => rw [opNnn, slice_getLsbD _ _ _ _ h]; congr 1; omega
  · rw [opFam, slice_getLsbD _ _ _ _ (by omega)]; congr 1; omega

/-- A word is its family, `x` and `kk` (formats XKK and X). -/
theorem word_xkk (op : Word) : opFam op ++ opX op ++ opKk op = op := by
  apply BitVec.eq_of_getLsbD_eq; intro i hi
  rw [BitVec.getLsbD_append]
  split
  · next h => rw [opKk, slice_getLsbD _ _ _ _ h]; congr 1; omega
  · rw [BitVec.getLsbD_append]
    split
    · next h => rw [opX, slice_getLsbD _ _ _ _ h]; congr 1; omega
    · rw [opFam, slice_getLsbD _ _ _ _ (by omega)]; congr 1; omega

/-- A word is its four nibbles (formats XY and XYN). -/
theorem word_xyn (op : Word) : opFam op ++ opX op ++ opY op ++ opN op = op := by
  apply BitVec.eq_of_getLsbD_eq; intro i hi
  rw [BitVec.getLsbD_append]
  split
  · next h => rw [opN, slice_getLsbD _ _ _ _ h]; congr 1; omega
  · rw [BitVec.getLsbD_append]
    split
    · next h => rw [opY, slice_getLsbD _ _ _ _ h]; congr 1; omega
    · rw [BitVec.getLsbD_append]
      split
      · next h => rw [opX, slice_getLsbD _ _ _ _ h]; congr 1; omega
      · rw [opFam, slice_getLsbD _ _ _ _ (by omega)]; congr 1; omega

/-- The bitwise and of two words, nibble by nibble. -/
theorem fields_and (a b : Word) : opFam (a &&& b) = opFam a &&& opFam b ∧ opX (a &&& b) = opX a &&& opX b ∧
    opY (a &&& b) = opY a &&& opY b ∧ opN (a &&& b) = opN a &&& opN b := by
  refine ⟨?_, ?_, ?_, ?_⟩ <;> apply BitVec.eq_of_getLsbD_eq <;> intro i hi <;>
    simp [opFam, opX, opY, opN, hi]

/-- Two words are equal when their nibbles are. -/
theorem word_eq_iff (a b : Word) : a = b ↔ opFam a = opFam b ∧ opX a = opX b ∧ opY a = opY b ∧ opN a = opN b := by
  refine ⟨fun h => by simp [h], fun ⟨h1, h2, h3, h4⟩ => ?_⟩
  rw [← word_xyn a, ← word_xyn b, h1, h2, h3, h4]

/-- A row covers a word nibble by nibble (R52). -/
theorem OpcodeRow.covers_iff (r : OpcodeRow) (op : Word) : r.covers op = true ↔
    opFam op &&& opFam r.mask = opFam r.pattern ∧ opX op &&& opX r.mask = opX r.pattern ∧
    opY op &&& opY r.mask = opY r.pattern ∧ opN op &&& opN r.mask = opN r.pattern := by
  rw [OpcodeRow.covers, beq_iff_eq, word_eq_iff]
  simp only [fields_and]

/-- `kk` is `y` and `n` (R46). -/
theorem opKk_eq (op : Word) : opKk op = opY op ++ opN op := by
  apply BitVec.eq_of_getLsbD_eq; intro i hi
  rw [BitVec.getLsbD_append]
  split
  · next h => rw [opN, slice_getLsbD _ _ _ _ h, opKk, slice_getLsbD _ _ _ _ hi]
  · rw [opY, slice_getLsbD _ _ _ _ (by omega), opKk, slice_getLsbD _ _ _ _ hi]; congr 1; omega

/-- The 34 rows of R52 are pairwise disjoint: no word is two instructions. -/
theorem opcodeRows_disjoint : opcodeRows.Pairwise fun r q => r.disjoint q = true := by decide

/-- There are 34 rows (R52). -/
theorem opcodeRows_length : opcodeRows.length = 34 := by decide

/-- Each instruction's row is a row of the table. -/
theorem Instr.row_mem (i : Instr) : i.row ∈ opcodeRows := by
  cases i <;> simp [Instr.row, opcodeRows, opcodeRows1to12, opcodeRows13to23, opcodeRows24to34]

/-- Decode's one error names the word (R55). -/
theorem decode_error {op : Word} {e : DecodeError} (h : decode op = .error e) : e = .unknown op := by
  unfold decode decodeFam0 decodeLow0 decodeFam8 decodeFamE decodeFamF at h
  repeat' split at h
  all_goals first | (cases h; rfl) | cases h

end Sys2Proof
end

