-- ==== Sys2Proof/Laws/State.lean ====
section
/-! SUPPORT. One lemma per field per named update of State (Machine/Ops.lean), each true by rfl, and per
accessor that the update leaves alone; then the updates that are built from others. -/

namespace Sys2Proof.Machine

variable (s : State)

/-! setV -/

@[simp] theorem State.setV_v (x : Nibble) (b : Byte) : (s.setV x b).v = s.v.set x.toNat b := rfl
@[simp] theorem State.setV_i (x : Nibble) (b : Byte) : (s.setV x b).i = s.i := rfl
@[simp] theorem State.setV_pc (x : Nibble) (b : Byte) : (s.setV x b).pc = s.pc := rfl
@[simp] theorem State.setV_stack (x : Nibble) (b : Byte) : (s.setV x b).stack = s.stack := rfl
@[simp] theorem State.setV_sp (x : Nibble) (b : Byte) : (s.setV x b).sp = s.sp := rfl
@[simp] theorem State.setV_dt (x : Nibble) (b : Byte) : (s.setV x b).dt = s.dt := rfl
@[simp] theorem State.setV_st (x : Nibble) (b : Byte) : (s.setV x b).st = s.st := rfl
@[simp] theorem State.setV_fb (x : Nibble) (b : Byte) : (s.setV x b).fb = s.fb := rfl
@[simp] theorem State.setV_keys (x : Nibble) (b : Byte) : (s.setV x b).keys = s.keys := rfl
@[simp] theorem State.setV_wait (x : Nibble) (b : Byte) : (s.setV x b).wait = s.wait := rfl
@[simp] theorem State.setV_waitReg (x : Nibble) (b : Byte) : (s.setV x b).waitReg = s.waitReg := rfl
@[simp] theorem State.setV_kevt (x : Nibble) (b : Byte) : (s.setV x b).kevt = s.kevt := rfl
@[simp] theorem State.setV_kcode (x : Nibble) (b : Byte) : (s.setV x b).kcode = s.kcode := rfl
@[simp] theorem State.setV_run (x : Nibble) (b : Byte) : (s.setV x b).run = s.run := rfl
@[simp] theorem State.setV_fcode (x : Nibble) (b : Byte) : (s.setV x b).fcode = s.fcode := rfl
@[simp] theorem State.setV_fpc (x : Nibble) (b : Byte) : (s.setV x b).fpc = s.fpc := rfl
@[simp] theorem State.setV_fop (x : Nibble) (b : Byte) : (s.setV x b).fop = s.fop := rfl
@[simp] theorem State.setV_mem (x : Nibble) (b : Byte) : (s.setV x b).mem = s.mem := rfl
@[simp] theorem State.setV_cfg (x : Nibble) (b : Byte) : (s.setV x b).cfg = s.cfg := rfl
@[simp] theorem State.setV_env (x : Nibble) (b : Byte) : (s.setV x b).env = s.env := rfl
@[simp] theorem State.setV_memRead (x : Nibble) (b : Byte) (q : Nat) : (s.setV x b).memRead q = s.memRead q := rfl
@[simp] theorem State.setV_pixel (x : Nibble) (b : Byte) (y : Fin 32) (u : Fin 64) : (s.setV x b).pixel y u = s.pixel y u := rfl
@[simp] theorem State.setV_keyDown (x : Nibble) (b : Byte) (q : Nibble) : (s.setV x b).keyDown q = s.keyDown q := rfl

/-! setI -/

@[simp] theorem State.setI_v (w : Word) : (s.setI w).v = s.v := rfl
@[simp] theorem State.setI_i (w : Word) : (s.setI w).i = w := rfl
@[simp] theorem State.setI_pc (w : Word) : (s.setI w).pc = s.pc := rfl
@[simp] theorem State.setI_stack (w : Word) : (s.setI w).stack = s.stack := rfl
@[simp] theorem State.setI_sp (w : Word) : (s.setI w).sp = s.sp := rfl
@[simp] theorem State.setI_dt (w : Word) : (s.setI w).dt = s.dt := rfl
@[simp] theorem State.setI_st (w : Word) : (s.setI w).st = s.st := rfl
@[simp] theorem State.setI_fb (w : Word) : (s.setI w).fb = s.fb := rfl
@[simp] theorem State.setI_keys (w : Word) : (s.setI w).keys = s.keys := rfl
@[simp] theorem State.setI_wait (w : Word) : (s.setI w).wait = s.wait := rfl
@[simp] theorem State.setI_waitReg (w : Word) : (s.setI w).waitReg = s.waitReg := rfl
@[simp] theorem State.setI_kevt (w : Word) : (s.setI w).kevt = s.kevt := rfl
@[simp] theorem State.setI_kcode (w : Word) : (s.setI w).kcode = s.kcode := rfl
@[simp] theorem State.setI_run (w : Word) : (s.setI w).run = s.run := rfl
@[simp] theorem State.setI_fcode (w : Word) : (s.setI w).fcode = s.fcode := rfl
@[simp] theorem State.setI_fpc (w : Word) : (s.setI w).fpc = s.fpc := rfl
@[simp] theorem State.setI_fop (w : Word) : (s.setI w).fop = s.fop := rfl
@[simp] theorem State.setI_mem (w : Word) : (s.setI w).mem = s.mem := rfl
@[simp] theorem State.setI_cfg (w : Word) : (s.setI w).cfg = s.cfg := rfl
@[simp] theorem State.setI_env (w : Word) : (s.setI w).env = s.env := rfl
@[simp] theorem State.setI_getV (w : Word) (j : Nibble) : (s.setI w).getV j = s.getV j := rfl
@[simp] theorem State.setI_memRead (w : Word) (q : Nat) : (s.setI w).memRead q = s.memRead q := rfl
@[simp] theorem State.setI_pixel (w : Word) (y : Fin 32) (u : Fin 64) : (s.setI w).pixel y u = s.pixel y u := rfl
@[simp] theorem State.setI_keyDown (w : Word) (q : Nibble) : (s.setI w).keyDown q = s.keyDown q := rfl

/-! setPc -/

@[simp] theorem State.setPc_v (w : Word) : (s.setPc w).v = s.v := rfl
@[simp] theorem State.setPc_i (w : Word) : (s.setPc w).i = s.i := rfl
@[simp] theorem State.setPc_pc (w : Word) : (s.setPc w).pc = w := rfl
@[simp] theorem State.setPc_stack (w : Word) : (s.setPc w).stack = s.stack := rfl
@[simp] theorem State.setPc_sp (w : Word) : (s.setPc w).sp = s.sp := rfl
@[simp] theorem State.setPc_dt (w : Word) : (s.setPc w).dt = s.dt := rfl
@[simp] theorem State.setPc_st (w : Word) : (s.setPc w).st = s.st := rfl
@[simp] theorem State.setPc_fb (w : Word) : (s.setPc w).fb = s.fb := rfl
@[simp] theorem State.setPc_keys (w : Word) : (s.setPc w).keys = s.keys := rfl
@[simp] theorem State.setPc_wait (w : Word) : (s.setPc w).wait = s.wait := rfl
@[simp] theorem State.setPc_waitReg (w : Word) : (s.setPc w).waitReg = s.waitReg := rfl
@[simp] theorem State.setPc_kevt (w : Word) : (s.setPc w).kevt = s.kevt := rfl
@[simp] theorem State.setPc_kcode (w : Word) : (s.setPc w).kcode = s.kcode := rfl
@[simp] theorem State.setPc_run (w : Word) : (s.setPc w).run = s.run := rfl
@[simp] theorem State.setPc_fcode (w : Word) : (s.setPc w).fcode = s.fcode := rfl
@[simp] theorem State.setPc_fpc (w : Word) : (s.setPc w).fpc = s.fpc := rfl
@[simp] theorem State.setPc_fop (w : Word) : (s.setPc w).fop = s.fop := rfl
@[simp] theorem State.setPc_mem (w : Word) : (s.setPc w).mem = s.mem := rfl
@[simp] theorem State.setPc_cfg (w : Word) : (s.setPc w).cfg = s.cfg := rfl
@[simp] theorem State.setPc_env (w : Word) : (s.setPc w).env = s.env := rfl
@[simp] theorem State.setPc_getV (w : Word) (j : Nibble) : (s.setPc w).getV j = s.getV j := rfl
@[simp] theorem State.setPc_memRead (w : Word) (q : Nat) : (s.setPc w).memRead q = s.memRead q := rfl
@[simp] theorem State.setPc_pixel (w : Word) (y : Fin 32) (u : Fin 64) : (s.setPc w).pixel y u = s.pixel y u := rfl
@[simp] theorem State.setPc_keyDown (w : Word) (q : Nibble) : (s.setPc w).keyDown q = s.keyDown q := rfl

/-! advance -/

@[simp] theorem State.advance_v : (s.advance).v = s.v := rfl
@[simp] theorem State.advance_i : (s.advance).i = s.i := rfl
@[simp] theorem State.advance_pc : (s.advance).pc = s.pc + 2 := rfl
@[simp] theorem State.advance_stack : (s.advance).stack = s.stack := rfl
@[simp] theorem State.advance_sp : (s.advance).sp = s.sp := rfl
@[simp] theorem State.advance_dt : (s.advance).dt = s.dt := rfl
@[simp] theorem State.advance_st : (s.advance).st = s.st := rfl
@[simp] theorem State.advance_fb : (s.advance).fb = s.fb := rfl
@[simp] theorem State.advance_keys : (s.advance).keys = s.keys := rfl
@[simp] theorem State.advance_wait : (s.advance).wait = s.wait := rfl
@[simp] theorem State.advance_waitReg : (s.advance).waitReg = s.waitReg := rfl
@[simp] theorem State.advance_kevt : (s.advance).kevt = s.kevt := rfl
@[simp] theorem State.advance_kcode : (s.advance).kcode = s.kcode := rfl
@[simp] theorem State.advance_run : (s.advance).run = s.run := rfl
@[simp] theorem State.advance_fcode : (s.advance).fcode = s.fcode := rfl
@[simp] theorem State.advance_fpc : (s.advance).fpc = s.fpc := rfl
@[simp] theorem State.advance_fop : (s.advance).fop = s.fop := rfl
@[simp] theorem State.advance_mem : (s.advance).mem = s.mem := rfl
@[simp] theorem State.advance_cfg : (s.advance).cfg = s.cfg := rfl
@[simp] theorem State.advance_env : (s.advance).env = s.env := rfl
@[simp] theorem State.advance_getV (j : Nibble) : (s.advance).getV j = s.getV j := rfl
@[simp] theorem State.advance_memRead (q : Nat) : (s.advance).memRead q = s.memRead q := rfl
@[simp] theorem State.advance_pixel (y : Fin 32) (u : Fin 64) : (s.advance).pixel y u = s.pixel y u := rfl
@[simp] theorem State.advance_keyDown (q : Nibble) : (s.advance).keyDown q = s.keyDown q := rfl

/-! setDt -/

@[simp] theorem State.setDt_v (b : Byte) : (s.setDt b).v = s.v := rfl
@[simp] theorem State.setDt_i (b : Byte) : (s.setDt b).i = s.i := rfl
@[simp] theorem State.setDt_pc (b : Byte) : (s.setDt b).pc = s.pc := rfl
@[simp] theorem State.setDt_stack (b : Byte) : (s.setDt b).stack = s.stack := rfl
@[simp] theorem State.setDt_sp (b : Byte) : (s.setDt b).sp = s.sp := rfl
@[simp] theorem State.setDt_dt (b : Byte) : (s.setDt b).dt = b := rfl
@[simp] theorem State.setDt_st (b : Byte) : (s.setDt b).st = s.st := rfl
@[simp] theorem State.setDt_fb (b : Byte) : (s.setDt b).fb = s.fb := rfl
@[simp] theorem State.setDt_keys (b : Byte) : (s.setDt b).keys = s.keys := rfl
@[simp] theorem State.setDt_wait (b : Byte) : (s.setDt b).wait = s.wait := rfl
@[simp] theorem State.setDt_waitReg (b : Byte) : (s.setDt b).waitReg = s.waitReg := rfl
@[simp] theorem State.setDt_kevt (b : Byte) : (s.setDt b).kevt = s.kevt := rfl
@[simp] theorem State.setDt_kcode (b : Byte) : (s.setDt b).kcode = s.kcode := rfl
@[simp] theorem State.setDt_run (b : Byte) : (s.setDt b).run = s.run := rfl
@[simp] theorem State.setDt_fcode (b : Byte) : (s.setDt b).fcode = s.fcode := rfl
@[simp] theorem State.setDt_fpc (b : Byte) : (s.setDt b).fpc = s.fpc := rfl
@[simp] theorem State.setDt_fop (b : Byte) : (s.setDt b).fop = s.fop := rfl
@[simp] theorem State.setDt_mem (b : Byte) : (s.setDt b).mem = s.mem := rfl
@[simp] theorem State.setDt_cfg (b : Byte) : (s.setDt b).cfg = s.cfg := rfl
@[simp] theorem State.setDt_env (b : Byte) : (s.setDt b).env = s.env := rfl
@[simp] theorem State.setDt_getV (b : Byte) (j : Nibble) : (s.setDt b).getV j = s.getV j := rfl
@[simp] theorem State.setDt_memRead (b : Byte) (q : Nat) : (s.setDt b).memRead q = s.memRead q := rfl
@[simp] theorem State.setDt_pixel (b : Byte) (y : Fin 32) (u : Fin 64) : (s.setDt b).pixel y u = s.pixel y u := rfl
@[simp] theorem State.setDt_keyDown (b : Byte) (q : Nibble) : (s.setDt b).keyDown q = s.keyDown q := rfl

/-! setSt -/

@[simp] theorem State.setSt_v (b : Byte) : (s.setSt b).v = s.v := rfl
@[simp] theorem State.setSt_i (b : Byte) : (s.setSt b).i = s.i := rfl
@[simp] theorem State.setSt_pc (b : Byte) : (s.setSt b).pc = s.pc := rfl
@[simp] theorem State.setSt_stack (b : Byte) : (s.setSt b).stack = s.stack := rfl
@[simp] theorem State.setSt_sp (b : Byte) : (s.setSt b).sp = s.sp := rfl
@[simp] theorem State.setSt_dt (b : Byte) : (s.setSt b).dt = s.dt := rfl
@[simp] theorem State.setSt_st (b : Byte) : (s.setSt b).st = b := rfl
@[simp] theorem State.setSt_fb (b : Byte) : (s.setSt b).fb = s.fb := rfl
@[simp] theorem State.setSt_keys (b : Byte) : (s.setSt b).keys = s.keys := rfl
@[simp] theorem State.setSt_wait (b : Byte) : (s.setSt b).wait = s.wait := rfl
@[simp] theorem State.setSt_waitReg (b : Byte) : (s.setSt b).waitReg = s.waitReg := rfl
@[simp] theorem State.setSt_kevt (b : Byte) : (s.setSt b).kevt = s.kevt := rfl
@[simp] theorem State.setSt_kcode (b : Byte) : (s.setSt b).kcode = s.kcode := rfl
@[simp] theorem State.setSt_run (b : Byte) : (s.setSt b).run = s.run := rfl
@[simp] theorem State.setSt_fcode (b : Byte) : (s.setSt b).fcode = s.fcode := rfl
@[simp] theorem State.setSt_fpc (b : Byte) : (s.setSt b).fpc = s.fpc := rfl
@[simp] theorem State.setSt_fop (b : Byte) : (s.setSt b).fop = s.fop := rfl
@[simp] theorem State.setSt_mem (b : Byte) : (s.setSt b).mem = s.mem := rfl
@[simp] theorem State.setSt_cfg (b : Byte) : (s.setSt b).cfg = s.cfg := rfl
@[simp] theorem State.setSt_env (b : Byte) : (s.setSt b).env = s.env := rfl
@[simp] theorem State.setSt_getV (b : Byte) (j : Nibble) : (s.setSt b).getV j = s.getV j := rfl
@[simp] theorem State.setSt_memRead (b : Byte) (q : Nat) : (s.setSt b).memRead q = s.memRead q := rfl
@[simp] theorem State.setSt_pixel (b : Byte) (y : Fin 32) (u : Fin 64) : (s.setSt b).pixel y u = s.pixel y u := rfl
@[simp] theorem State.setSt_keyDown (b : Byte) (q : Nibble) : (s.setSt b).keyDown q = s.keyDown q := rfl

/-! setFb -/

@[simp] theorem State.setFb_v (f : Vector (BitVec 64) 32) : (s.setFb f).v = s.v := rfl
@[simp] theorem State.setFb_i (f : Vector (BitVec 64) 32) : (s.setFb f).i = s.i := rfl
@[simp] theorem State.setFb_pc (f : Vector (BitVec 64) 32) : (s.setFb f).pc = s.pc := rfl
@[simp] theorem State.setFb_stack (f : Vector (BitVec 64) 32) : (s.setFb f).stack = s.stack := rfl
@[simp] theorem State.setFb_sp (f : Vector (BitVec 64) 32) : (s.setFb f).sp = s.sp := rfl
@[simp] theorem State.setFb_dt (f : Vector (BitVec 64) 32) : (s.setFb f).dt = s.dt := rfl
@[simp] theorem State.setFb_st (f : Vector (BitVec 64) 32) : (s.setFb f).st = s.st := rfl
@[simp] theorem State.setFb_fb (f : Vector (BitVec 64) 32) : (s.setFb f).fb = f := rfl
@[simp] theorem State.setFb_keys (f : Vector (BitVec 64) 32) : (s.setFb f).keys = s.keys := rfl
@[simp] theorem State.setFb_wait (f : Vector (BitVec 64) 32) : (s.setFb f).wait = s.wait := rfl
@[simp] theorem State.setFb_waitReg (f : Vector (BitVec 64) 32) : (s.setFb f).waitReg = s.waitReg := rfl
@[simp] theorem State.setFb_kevt (f : Vector (BitVec 64) 32) : (s.setFb f).kevt = s.kevt := rfl
@[simp] theorem State.setFb_kcode (f : Vector (BitVec 64) 32) : (s.setFb f).kcode = s.kcode := rfl
@[simp] theorem State.setFb_run (f : Vector (BitVec 64) 32) : (s.setFb f).run = s.run := rfl
@[simp] theorem State.setFb_fcode (f : Vector (BitVec 64) 32) : (s.setFb f).fcode = s.fcode := rfl
@[simp] theorem State.setFb_fpc (f : Vector (BitVec 64) 32) : (s.setFb f).fpc = s.fpc := rfl
@[simp] theorem State.setFb_fop (f : Vector (BitVec 64) 32) : (s.setFb f).fop = s.fop := rfl
@[simp] theorem State.setFb_mem (f : Vector (BitVec 64) 32) : (s.setFb f).mem = s.mem := rfl
@[simp] theorem State.setFb_cfg (f : Vector (BitVec 64) 32) : (s.setFb f).cfg = s.cfg := rfl
@[simp] theorem State.setFb_env (f : Vector (BitVec 64) 32) : (s.setFb f).env = s.env := rfl
@[simp] theorem State.setFb_getV (f : Vector (BitVec 64) 32) (j : Nibble) : (s.setFb f).getV j = s.getV j := rfl
@[simp] theorem State.setFb_memRead (f : Vector (BitVec 64) 32) (q : Nat) : (s.setFb f).memRead q = s.memRead q := rfl
@[simp] theorem State.setFb_keyDown (f : Vector (BitVec 64) 32) (q : Nibble) : (s.setFb f).keyDown q = s.keyDown q := rfl

/-! setKey -/

@[simp] theorem State.setKey_v (k : Nibble) : (s.setKey k).v = s.v := rfl
@[simp] theorem State.setKey_i (k : Nibble) : (s.setKey k).i = s.i := rfl
@[simp] theorem State.setKey_pc (k : Nibble) : (s.setKey k).pc = s.pc := rfl
@[simp] theorem State.setKey_stack (k : Nibble) : (s.setKey k).stack = s.stack := rfl
@[simp] theorem State.setKey_sp (k : Nibble) : (s.setKey k).sp = s.sp := rfl
@[simp] theorem State.setKey_dt (k : Nibble) : (s.setKey k).dt = s.dt := rfl
@[simp] theorem State.setKey_st (k : Nibble) : (s.setKey k).st = s.st := rfl
@[simp] theorem State.setKey_fb (k : Nibble) : (s.setKey k).fb = s.fb := rfl
@[simp] theorem State.setKey_keys (k : Nibble) : (s.setKey k).keys = s.keys ||| BitVec.twoPow 16 k.toNat := rfl
@[simp] theorem State.setKey_wait (k : Nibble) : (s.setKey k).wait = s.wait := rfl
@[simp] theorem State.setKey_waitReg (k : Nibble) : (s.setKey k).waitReg = s.waitReg := rfl
@[simp] theorem State.setKey_kevt (k : Nibble) : (s.setKey k).kevt = s.kevt := rfl
@[simp] theorem State.setKey_kcode (k : Nibble) : (s.setKey k).kcode = s.kcode := rfl
@[simp] theorem State.setKey_run (k : Nibble) : (s.setKey k).run = s.run := rfl
@[simp] theorem State.setKey_fcode (k : Nibble) : (s.setKey k).fcode = s.fcode := rfl
@[simp] theorem State.setKey_fpc (k : Nibble) : (s.setKey k).fpc = s.fpc := rfl
@[simp] theorem State.setKey_fop (k : Nibble) : (s.setKey k).fop = s.fop := rfl
@[simp] theorem State.setKey_mem (k : Nibble) : (s.setKey k).mem = s.mem := rfl
@[simp] theorem State.setKey_cfg (k : Nibble) : (s.setKey k).cfg = s.cfg := rfl
@[simp] theorem State.setKey_env (k : Nibble) : (s.setKey k).env = s.env := rfl
@[simp] theorem State.setKey_getV (k : Nibble) (j : Nibble) : (s.setKey k).getV j = s.getV j := rfl
@[simp] theorem State.setKey_memRead (k : Nibble) (q : Nat) : (s.setKey k).memRead q = s.memRead q := rfl
@[simp] theorem State.setKey_pixel (k : Nibble) (y : Fin 32) (u : Fin 64) : (s.setKey k).pixel y u = s.pixel y u := rfl

/-! clearKey -/

@[simp] theorem State.clearKey_v (k : Nibble) : (s.clearKey k).v = s.v := rfl
@[simp] theorem State.clearKey_i (k : Nibble) : (s.clearKey k).i = s.i := rfl
@[simp] theorem State.clearKey_pc (k : Nibble) : (s.clearKey k).pc = s.pc := rfl
@[simp] theorem State.clearKey_stack (k : Nibble) : (s.clearKey k).stack = s.stack := rfl
@[simp] theorem State.clearKey_sp (k : Nibble) : (s.clearKey k).sp = s.sp := rfl
@[simp] theorem State.clearKey_dt (k : Nibble) : (s.clearKey k).dt = s.dt := rfl
@[simp] theorem State.clearKey_st (k : Nibble) : (s.clearKey k).st = s.st := rfl
@[simp] theorem State.clearKey_fb (k : Nibble) : (s.clearKey k).fb = s.fb := rfl
@[simp] theorem State.clearKey_keys (k : Nibble) : (s.clearKey k).keys = s.keys &&& ~~~(BitVec.twoPow 16 k.toNat) := rfl
@[simp] theorem State.clearKey_wait (k : Nibble) : (s.clearKey k).wait = s.wait := rfl
@[simp] theorem State.clearKey_waitReg (k : Nibble) : (s.clearKey k).waitReg = s.waitReg := rfl
@[simp] theorem State.clearKey_kevt (k : Nibble) : (s.clearKey k).kevt = s.kevt := rfl
@[simp] theorem State.clearKey_kcode (k : Nibble) : (s.clearKey k).kcode = s.kcode := rfl
@[simp] theorem State.clearKey_run (k : Nibble) : (s.clearKey k).run = s.run := rfl
@[simp] theorem State.clearKey_fcode (k : Nibble) : (s.clearKey k).fcode = s.fcode := rfl
@[simp] theorem State.clearKey_fpc (k : Nibble) : (s.clearKey k).fpc = s.fpc := rfl
@[simp] theorem State.clearKey_fop (k : Nibble) : (s.clearKey k).fop = s.fop := rfl
@[simp] theorem State.clearKey_mem (k : Nibble) : (s.clearKey k).mem = s.mem := rfl
@[simp] theorem State.clearKey_cfg (k : Nibble) : (s.clearKey k).cfg = s.cfg := rfl
@[simp] theorem State.clearKey_env (k : Nibble) : (s.clearKey k).env = s.env := rfl
@[simp] theorem State.clearKey_getV (k : Nibble) (j : Nibble) : (s.clearKey k).getV j = s.getV j := rfl
@[simp] theorem State.clearKey_memRead (k : Nibble) (q : Nat) : (s.clearKey k).memRead q = s.memRead q := rfl
@[simp] theorem State.clearKey_pixel (k : Nibble) (y : Fin 32) (u : Fin 64) : (s.clearKey k).pixel y u = s.pixel y u := rfl

/-! push -/

@[simp] theorem State.push_v (w : Word) (h : s.sp.val < 16) : (s.push w h).v = s.v := rfl
@[simp] theorem State.push_i (w : Word) (h : s.sp.val < 16) : (s.push w h).i = s.i := rfl
@[simp] theorem State.push_pc (w : Word) (h : s.sp.val < 16) : (s.push w h).pc = s.pc := rfl
@[simp] theorem State.push_stack (w : Word) (h : s.sp.val < 16) : (s.push w h).stack = s.stack.set s.sp.val w := rfl
@[simp] theorem State.push_sp (w : Word) (h : s.sp.val < 16) : (s.push w h).sp = ⟨s.sp.val + 1, by omega⟩ := rfl
@[simp] theorem State.push_dt (w : Word) (h : s.sp.val < 16) : (s.push w h).dt = s.dt := rfl
@[simp] theorem State.push_st (w : Word) (h : s.sp.val < 16) : (s.push w h).st = s.st := rfl
@[simp] theorem State.push_fb (w : Word) (h : s.sp.val < 16) : (s.push w h).fb = s.fb := rfl
@[simp] theorem State.push_keys (w : Word) (h : s.sp.val < 16) : (s.push w h).keys = s.keys := rfl
@[simp] theorem State.push_wait (w : Word) (h : s.sp.val < 16) : (s.push w h).wait = s.wait := rfl
@[simp] theorem State.push_waitReg (w : Word) (h : s.sp.val < 16) : (s.push w h).waitReg = s.waitReg := rfl
@[simp] theorem State.push_kevt (w : Word) (h : s.sp.val < 16) : (s.push w h).kevt = s.kevt := rfl
@[simp] theorem State.push_kcode (w : Word) (h : s.sp.val < 16) : (s.push w h).kcode = s.kcode := rfl
@[simp] theorem State.push_run (w : Word) (h : s.sp.val < 16) : (s.push w h).run = s.run := rfl
@[simp] theorem State.push_fcode (w : Word) (h : s.sp.val < 16) : (s.push w h).fcode = s.fcode := rfl
@[simp] theorem State.push_fpc (w : Word) (h : s.sp.val < 16) : (s.push w h).fpc = s.fpc := rfl
@[simp] theorem State.push_fop (w : Word) (h : s.sp.val < 16) : (s.push w h).fop = s.fop := rfl
@[simp] theorem State.push_mem (w : Word) (h : s.sp.val < 16) : (s.push w h).mem = s.mem := rfl
@[simp] theorem State.push_cfg (w : Word) (h : s.sp.val < 16) : (s.push w h).cfg = s.cfg := rfl
@[simp] theorem State.push_env (w : Word) (h : s.sp.val < 16) : (s.push w h).env = s.env := rfl
@[simp] theorem State.push_getV (w : Word) (h : s.sp.val < 16) (j : Nibble) : (s.push w h).getV j = s.getV j := rfl
@[simp] theorem State.push_memRead (w : Word) (h : s.sp.val < 16) (q : Nat) : (s.push w h).memRead q = s.memRead q := rfl
@[simp] theorem State.push_pixel (w : Word) (h : s.sp.val < 16) (y : Fin 32) (u : Fin 64) : (s.push w h).pixel y u = s.pixel y u := rfl
@[simp] theorem State.push_keyDown (w : Word) (h : s.sp.val < 16) (q : Nibble) : (s.push w h).keyDown q = s.keyDown q := rfl

/-! pop -/

@[simp] theorem State.pop_v : (s.pop).v = s.v := rfl
@[simp] theorem State.pop_i : (s.pop).i = s.i := rfl
@[simp] theorem State.pop_pc : (s.pop).pc = s.pc := rfl
@[simp] theorem State.pop_stack : (s.pop).stack = s.stack := rfl
@[simp] theorem State.pop_sp : (s.pop).sp = ⟨s.sp.val - 1, by omega⟩ := rfl
@[simp] theorem State.pop_dt : (s.pop).dt = s.dt := rfl
@[simp] theorem State.pop_st : (s.pop).st = s.st := rfl
@[simp] theorem State.pop_fb : (s.pop).fb = s.fb := rfl
@[simp] theorem State.pop_keys : (s.pop).keys = s.keys := rfl
@[simp] theorem State.pop_wait : (s.pop).wait = s.wait := rfl
@[simp] theorem State.pop_waitReg : (s.pop).waitReg = s.waitReg := rfl
@[simp] theorem State.pop_kevt : (s.pop).kevt = s.kevt := rfl
@[simp] theorem State.pop_kcode : (s.pop).kcode = s.kcode := rfl
@[simp] theorem State.pop_run : (s.pop).run = s.run := rfl
@[simp] theorem State.pop_fcode : (s.pop).fcode = s.fcode := rfl
@[simp] theorem State.pop_fpc : (s.pop).fpc = s.fpc := rfl
@[simp] theorem State.pop_fop : (s.pop).fop = s.fop := rfl
@[simp] theorem State.pop_mem : (s.pop).mem = s.mem := rfl
@[simp] theorem State.pop_cfg : (s.pop).cfg = s.cfg := rfl
@[simp] theorem State.pop_env : (s.pop).env = s.env := rfl
@[simp] theorem State.pop_getV (j : Nibble) : (s.pop).getV j = s.getV j := rfl
@[simp] theorem State.pop_memRead (q : Nat) : (s.pop).memRead q = s.memRead q := rfl
@[simp] theorem State.pop_pixel (y : Fin 32) (u : Fin 64) : (s.pop).pixel y u = s.pixel y u := rfl
@[simp] theorem State.pop_keyDown (q : Nibble) : (s.pop).keyDown q = s.keyDown q := rfl

/-! memWrite -/

@[simp] theorem State.memWrite_v (a : Nat) (b : Byte) : (s.memWrite a b).v = s.v := rfl
@[simp] theorem State.memWrite_i (a : Nat) (b : Byte) : (s.memWrite a b).i = s.i := rfl
@[simp] theorem State.memWrite_pc (a : Nat) (b : Byte) : (s.memWrite a b).pc = s.pc := rfl
@[simp] theorem State.memWrite_stack (a : Nat) (b : Byte) : (s.memWrite a b).stack = s.stack := rfl
@[simp] theorem State.memWrite_sp (a : Nat) (b : Byte) : (s.memWrite a b).sp = s.sp := rfl
@[simp] theorem State.memWrite_dt (a : Nat) (b : Byte) : (s.memWrite a b).dt = s.dt := rfl
@[simp] theorem State.memWrite_st (a : Nat) (b : Byte) : (s.memWrite a b).st = s.st := rfl
@[simp] theorem State.memWrite_fb (a : Nat) (b : Byte) : (s.memWrite a b).fb = s.fb := rfl
@[simp] theorem State.memWrite_keys (a : Nat) (b : Byte) : (s.memWrite a b).keys = s.keys := rfl
@[simp] theorem State.memWrite_wait (a : Nat) (b : Byte) : (s.memWrite a b).wait = s.wait := rfl
@[simp] theorem State.memWrite_waitReg (a : Nat) (b : Byte) : (s.memWrite a b).waitReg = s.waitReg := rfl
@[simp] theorem State.memWrite_kevt (a : Nat) (b : Byte) : (s.memWrite a b).kevt = s.kevt := rfl
@[simp] theorem State.memWrite_kcode (a : Nat) (b : Byte) : (s.memWrite a b).kcode = s.kcode := rfl
@[simp] theorem State.memWrite_run (a : Nat) (b : Byte) : (s.memWrite a b).run = s.run := rfl
@[simp] theorem State.memWrite_fcode (a : Nat) (b : Byte) : (s.memWrite a b).fcode = s.fcode := rfl
@[simp] theorem State.memWrite_fpc (a : Nat) (b : Byte) : (s.memWrite a b).fpc = s.fpc := rfl
@[simp] theorem State.memWrite_fop (a : Nat) (b : Byte) : (s.memWrite a b).fop = s.fop := rfl
@[simp] theorem State.memWrite_mem (a : Nat) (b : Byte) : (s.memWrite a b).mem = Memory.write s.cfg s.mem (wrapAddr a) b := rfl
@[simp] theorem State.memWrite_cfg (a : Nat) (b : Byte) : (s.memWrite a b).cfg = s.cfg := rfl
@[simp] theorem State.memWrite_env (a : Nat) (b : Byte) : (s.memWrite a b).env = s.env := rfl
@[simp] theorem State.memWrite_getV (a : Nat) (b : Byte) (j : Nibble) : (s.memWrite a b).getV j = s.getV j := rfl
@[simp] theorem State.memWrite_pixel (a : Nat) (b : Byte) (y : Fin 32) (u : Fin 64) : (s.memWrite a b).pixel y u = s.pixel y u := rfl
@[simp] theorem State.memWrite_keyDown (a : Nat) (b : Byte) (q : Nibble) : (s.memWrite a b).keyDown q = s.keyDown q := rfl

/-! takeFault -/

@[simp] theorem State.takeFault_v (c : FaultCode) (a op : Word) : (s.takeFault c a op).v = s.v := rfl
@[simp] theorem State.takeFault_i (c : FaultCode) (a op : Word) : (s.takeFault c a op).i = s.i := rfl
@[simp] theorem State.takeFault_pc (c : FaultCode) (a op : Word) : (s.takeFault c a op).pc = s.pc := rfl
@[simp] theorem State.takeFault_stack (c : FaultCode) (a op : Word) : (s.takeFault c a op).stack = s.stack := rfl
@[simp] theorem State.takeFault_sp (c : FaultCode) (a op : Word) : (s.takeFault c a op).sp = s.sp := rfl
@[simp] theorem State.takeFault_dt (c : FaultCode) (a op : Word) : (s.takeFault c a op).dt = s.dt := rfl
@[simp] theorem State.takeFault_st (c : FaultCode) (a op : Word) : (s.takeFault c a op).st = s.st := rfl
@[simp] theorem State.takeFault_fb (c : FaultCode) (a op : Word) : (s.takeFault c a op).fb = s.fb := rfl
@[simp] theorem State.takeFault_keys (c : FaultCode) (a op : Word) : (s.takeFault c a op).keys = s.keys := rfl
@[simp] theorem State.takeFault_wait (c : FaultCode) (a op : Word) : (s.takeFault c a op).wait = s.wait := rfl
@[simp] theorem State.takeFault_waitReg (c : FaultCode) (a op : Word) : (s.takeFault c a op).waitReg = s.waitReg := rfl
@[simp] theorem State.takeFault_kevt (c : FaultCode) (a op : Word) : (s.takeFault c a op).kevt = s.kevt := rfl
@[simp] theorem State.takeFault_kcode (c : FaultCode) (a op : Word) : (s.takeFault c a op).kcode = s.kcode := rfl
@[simp] theorem State.takeFault_run (c : FaultCode) (a op : Word) : (s.takeFault c a op).run = .halted := rfl
@[simp] theorem State.takeFault_fcode (c : FaultCode) (a op : Word) : (s.takeFault c a op).fcode = c := rfl
@[simp] theorem State.takeFault_fpc (c : FaultCode) (a op : Word) : (s.takeFault c a op).fpc = a := rfl
@[simp] theorem State.takeFault_fop (c : FaultCode) (a op : Word) : (s.takeFault c a op).fop = op := rfl
@[simp] theorem State.takeFault_mem (c : FaultCode) (a op : Word) : (s.takeFault c a op).mem = s.mem := rfl
@[simp] theorem State.takeFault_cfg (c : FaultCode) (a op : Word) : (s.takeFault c a op).cfg = s.cfg := rfl
@[simp] theorem State.takeFault_env (c : FaultCode) (a op : Word) : (s.takeFault c a op).env = s.env := rfl
@[simp] theorem State.takeFault_getV (c : FaultCode) (a op : Word) (j : Nibble) : (s.takeFault c a op).getV j = s.getV j := rfl
@[simp] theorem State.takeFault_memRead (c : FaultCode) (a op : Word) (q : Nat) : (s.takeFault c a op).memRead q = s.memRead q := rfl
@[simp] theorem State.takeFault_pixel (c : FaultCode) (a op : Word) (y : Fin 32) (u : Fin 64) : (s.takeFault c a op).pixel y u = s.pixel y u := rfl
@[simp] theorem State.takeFault_keyDown (c : FaultCode) (a op : Word) (q : Nibble) : (s.takeFault c a op).keyDown q = s.keyDown q := rfl

/-! enterWait -/

@[simp] theorem State.enterWait_v (x : Nibble) : (s.enterWait x).v = s.v := rfl
@[simp] theorem State.enterWait_i (x : Nibble) : (s.enterWait x).i = s.i := rfl
@[simp] theorem State.enterWait_pc (x : Nibble) : (s.enterWait x).pc = s.pc - 2 := rfl
@[simp] theorem State.enterWait_stack (x : Nibble) : (s.enterWait x).stack = s.stack := rfl
@[simp] theorem State.enterWait_sp (x : Nibble) : (s.enterWait x).sp = s.sp := rfl
@[simp] theorem State.enterWait_dt (x : Nibble) : (s.enterWait x).dt = s.dt := rfl
@[simp] theorem State.enterWait_st (x : Nibble) : (s.enterWait x).st = s.st := rfl
@[simp] theorem State.enterWait_fb (x : Nibble) : (s.enterWait x).fb = s.fb := rfl
@[simp] theorem State.enterWait_keys (x : Nibble) : (s.enterWait x).keys = s.keys := rfl
@[simp] theorem State.enterWait_wait (x : Nibble) : (s.enterWait x).wait = true := rfl
@[simp] theorem State.enterWait_waitReg (x : Nibble) : (s.enterWait x).waitReg = x := rfl
@[simp] theorem State.enterWait_kevt (x : Nibble) : (s.enterWait x).kevt = false := rfl
@[simp] theorem State.enterWait_kcode (x : Nibble) : (s.enterWait x).kcode = s.kcode := rfl
@[simp] theorem State.enterWait_run (x : Nibble) : (s.enterWait x).run = s.run := rfl
@[simp] theorem State.enterWait_fcode (x : Nibble) : (s.enterWait x).fcode = s.fcode := rfl
@[simp] theorem State.enterWait_fpc (x : Nibble) : (s.enterWait x).fpc = s.fpc := rfl
@[simp] theorem State.enterWait_fop (x : Nibble) : (s.enterWait x).fop = s.fop := rfl
@[simp] theorem State.enterWait_mem (x : Nibble) : (s.enterWait x).mem = s.mem := rfl
@[simp] theorem State.enterWait_cfg (x : Nibble) : (s.enterWait x).cfg = s.cfg := rfl
@[simp] theorem State.enterWait_env (x : Nibble) : (s.enterWait x).env = s.env := rfl
@[simp] theorem State.enterWait_getV (x : Nibble) (j : Nibble) : (s.enterWait x).getV j = s.getV j := rfl
@[simp] theorem State.enterWait_memRead (x : Nibble) (q : Nat) : (s.enterWait x).memRead q = s.memRead q := rfl
@[simp] theorem State.enterWait_pixel (x : Nibble) (y : Fin 32) (u : Fin 64) : (s.enterWait x).pixel y u = s.pixel y u := rfl
@[simp] theorem State.enterWait_keyDown (x : Nibble) (q : Nibble) : (s.enterWait x).keyDown q = s.keyDown q := rfl

/-! leaveWait -/

@[simp] theorem State.leaveWait_v : (s.leaveWait).v = s.v := rfl
@[simp] theorem State.leaveWait_i : (s.leaveWait).i = s.i := rfl
@[simp] theorem State.leaveWait_pc : (s.leaveWait).pc = s.pc + 2 := rfl
@[simp] theorem State.leaveWait_stack : (s.leaveWait).stack = s.stack := rfl
@[simp] theorem State.leaveWait_sp : (s.leaveWait).sp = s.sp := rfl
@[simp] theorem State.leaveWait_dt : (s.leaveWait).dt = s.dt := rfl
@[simp] theorem State.leaveWait_st : (s.leaveWait).st = s.st := rfl
@[simp] theorem State.leaveWait_fb : (s.leaveWait).fb = s.fb := rfl
@[simp] theorem State.leaveWait_keys : (s.leaveWait).keys = s.keys := rfl
@[simp] theorem State.leaveWait_wait : (s.leaveWait).wait = false := rfl
@[simp] theorem State.leaveWait_waitReg : (s.leaveWait).waitReg = s.waitReg := rfl
@[simp] theorem State.leaveWait_kevt : (s.leaveWait).kevt = false := rfl
@[simp] theorem State.leaveWait_kcode : (s.leaveWait).kcode = s.kcode := rfl
@[simp] theorem State.leaveWait_run : (s.leaveWait).run = s.run := rfl
@[simp] theorem State.leaveWait_fcode : (s.leaveWait).fcode = s.fcode := rfl
@[simp] theorem State.leaveWait_fpc : (s.leaveWait).fpc = s.fpc := rfl
@[simp] theorem State.leaveWait_fop : (s.leaveWait).fop = s.fop := rfl
@[simp] theorem State.leaveWait_mem : (s.leaveWait).mem = s.mem := rfl
@[simp] theorem State.leaveWait_cfg : (s.leaveWait).cfg = s.cfg := rfl
@[simp] theorem State.leaveWait_env : (s.leaveWait).env = s.env := rfl
@[simp] theorem State.leaveWait_getV (j : Nibble) : (s.leaveWait).getV j = s.getV j := rfl
@[simp] theorem State.leaveWait_memRead (q : Nat) : (s.leaveWait).memRead q = s.memRead q := rfl
@[simp] theorem State.leaveWait_pixel (y : Fin 32) (u : Fin 64) : (s.leaveWait).pixel y u = s.pixel y u := rfl
@[simp] theorem State.leaveWait_keyDown (q : Nibble) : (s.leaveWait).keyDown q = s.keyDown q := rfl

/-! latchKey -/

@[simp] theorem State.latchKey_v (k : Nibble) : (s.latchKey k).v = s.v := rfl
@[simp] theorem State.latchKey_i (k : Nibble) : (s.latchKey k).i = s.i := rfl
@[simp] theorem State.latchKey_pc (k : Nibble) : (s.latchKey k).pc = s.pc := rfl
@[simp] theorem State.latchKey_stack (k : Nibble) : (s.latchKey k).stack = s.stack := rfl
@[simp] theorem State.latchKey_sp (k : Nibble) : (s.latchKey k).sp = s.sp := rfl
@[simp] theorem State.latchKey_dt (k : Nibble) : (s.latchKey k).dt = s.dt := rfl
@[simp] theorem State.latchKey_st (k : Nibble) : (s.latchKey k).st = s.st := rfl
@[simp] theorem State.latchKey_fb (k : Nibble) : (s.latchKey k).fb = s.fb := rfl
@[simp] theorem State.latchKey_keys (k : Nibble) : (s.latchKey k).keys = s.keys := rfl
@[simp] theorem State.latchKey_wait (k : Nibble) : (s.latchKey k).wait = s.wait := rfl
@[simp] theorem State.latchKey_waitReg (k : Nibble) : (s.latchKey k).waitReg = s.waitReg := rfl
@[simp] theorem State.latchKey_kevt (k : Nibble) : (s.latchKey k).kevt = true := rfl
@[simp] theorem State.latchKey_kcode (k : Nibble) : (s.latchKey k).kcode = k := rfl
@[simp] theorem State.latchKey_run (k : Nibble) : (s.latchKey k).run = s.run := rfl
@[simp] theorem State.latchKey_fcode (k : Nibble) : (s.latchKey k).fcode = s.fcode := rfl
@[simp] theorem State.latchKey_fpc (k : Nibble) : (s.latchKey k).fpc = s.fpc := rfl
@[simp] theorem State.latchKey_fop (k : Nibble) : (s.latchKey k).fop = s.fop := rfl
@[simp] theorem State.latchKey_mem (k : Nibble) : (s.latchKey k).mem = s.mem := rfl
@[simp] theorem State.latchKey_cfg (k : Nibble) : (s.latchKey k).cfg = s.cfg := rfl
@[simp] theorem State.latchKey_env (k : Nibble) : (s.latchKey k).env = s.env := rfl
@[simp] theorem State.latchKey_getV (k : Nibble) (j : Nibble) : (s.latchKey k).getV j = s.getV j := rfl
@[simp] theorem State.latchKey_memRead (k : Nibble) (q : Nat) : (s.latchKey k).memRead q = s.memRead q := rfl
@[simp] theorem State.latchKey_pixel (k : Nibble) (y : Fin 32) (u : Fin 64) : (s.latchKey k).pixel y u = s.pixel y u := rfl
@[simp] theorem State.latchKey_keyDown (k : Nibble) (q : Nibble) : (s.latchKey k).keyDown q = s.keyDown q := rfl

/-! setRndArg -/

@[simp] theorem State.setRndArg_v (r : Option Byte) : (s.setRndArg r).v = s.v := rfl
@[simp] theorem State.setRndArg_i (r : Option Byte) : (s.setRndArg r).i = s.i := rfl
@[simp] theorem State.setRndArg_pc (r : Option Byte) : (s.setRndArg r).pc = s.pc := rfl
@[simp] theorem State.setRndArg_stack (r : Option Byte) : (s.setRndArg r).stack = s.stack := rfl
@[simp] theorem State.setRndArg_sp (r : Option Byte) : (s.setRndArg r).sp = s.sp := rfl
@[simp] theorem State.setRndArg_dt (r : Option Byte) : (s.setRndArg r).dt = s.dt := rfl
@[simp] theorem State.setRndArg_st (r : Option Byte) : (s.setRndArg r).st = s.st := rfl
@[simp] theorem State.setRndArg_fb (r : Option Byte) : (s.setRndArg r).fb = s.fb := rfl
@[simp] theorem State.setRndArg_keys (r : Option Byte) : (s.setRndArg r).keys = s.keys := rfl
@[simp] theorem State.setRndArg_wait (r : Option Byte) : (s.setRndArg r).wait = s.wait := rfl
@[simp] theorem State.setRndArg_waitReg (r : Option Byte) : (s.setRndArg r).waitReg = s.waitReg := rfl
@[simp] theorem State.setRndArg_kevt (r : Option Byte) : (s.setRndArg r).kevt = s.kevt := rfl
@[simp] theorem State.setRndArg_kcode (r : Option Byte) : (s.setRndArg r).kcode = s.kcode := rfl
@[simp] theorem State.setRndArg_run (r : Option Byte) : (s.setRndArg r).run = s.run := rfl
@[simp] theorem State.setRndArg_fcode (r : Option Byte) : (s.setRndArg r).fcode = s.fcode := rfl
@[simp] theorem State.setRndArg_fpc (r : Option Byte) : (s.setRndArg r).fpc = s.fpc := rfl
@[simp] theorem State.setRndArg_fop (r : Option Byte) : (s.setRndArg r).fop = s.fop := rfl
@[simp] theorem State.setRndArg_mem (r : Option Byte) : (s.setRndArg r).mem = s.mem := rfl
@[simp] theorem State.setRndArg_cfg (r : Option Byte) : (s.setRndArg r).cfg = s.cfg := rfl
@[simp] theorem State.setRndArg_env (r : Option Byte) : (s.setRndArg r).env = { s.env with rndArg := r } := rfl
@[simp] theorem State.setRndArg_getV (r : Option Byte) (j : Nibble) : (s.setRndArg r).getV j = s.getV j := rfl
@[simp] theorem State.setRndArg_memRead (r : Option Byte) (q : Nat) : (s.setRndArg r).memRead q = s.memRead q := rfl
@[simp] theorem State.setRndArg_pixel (r : Option Byte) (y : Fin 32) (u : Fin 64) : (s.setRndArg r).pixel y u = s.pixel y u := rfl
@[simp] theorem State.setRndArg_keyDown (r : Option Byte) (q : Nibble) : (s.setRndArg r).keyDown q = s.keyDown q := rfl

/-! setSchedule -/

@[simp] theorem State.setSchedule_v (l : List Op) : (s.setSchedule l).v = s.v := rfl
@[simp] theorem State.setSchedule_i (l : List Op) : (s.setSchedule l).i = s.i := rfl
@[simp] theorem State.setSchedule_pc (l : List Op) : (s.setSchedule l).pc = s.pc := rfl
@[simp] theorem State.setSchedule_stack (l : List Op) : (s.setSchedule l).stack = s.stack := rfl
@[simp] theorem State.setSchedule_sp (l : List Op) : (s.setSchedule l).sp = s.sp := rfl
@[simp] theorem State.setSchedule_dt (l : List Op) : (s.setSchedule l).dt = s.dt := rfl
@[simp] theorem State.setSchedule_st (l : List Op) : (s.setSchedule l).st = s.st := rfl
@[simp] theorem State.setSchedule_fb (l : List Op) : (s.setSchedule l).fb = s.fb := rfl
@[simp] theorem State.setSchedule_keys (l : List Op) : (s.setSchedule l).keys = s.keys := rfl
@[simp] theorem State.setSchedule_wait (l : List Op) : (s.setSchedule l).wait = s.wait := rfl
@[simp] theorem State.setSchedule_waitReg (l : List Op) : (s.setSchedule l).waitReg = s.waitReg := rfl
@[simp] theorem State.setSchedule_kevt (l : List Op) : (s.setSchedule l).kevt = s.kevt := rfl
@[simp] theorem State.setSchedule_kcode (l : List Op) : (s.setSchedule l).kcode = s.kcode := rfl
@[simp] theorem State.setSchedule_run (l : List Op) : (s.setSchedule l).run = s.run := rfl
@[simp] theorem State.setSchedule_fcode (l : List Op) : (s.setSchedule l).fcode = s.fcode := rfl
@[simp] theorem State.setSchedule_fpc (l : List Op) : (s.setSchedule l).fpc = s.fpc := rfl
@[simp] theorem State.setSchedule_fop (l : List Op) : (s.setSchedule l).fop = s.fop := rfl
@[simp] theorem State.setSchedule_mem (l : List Op) : (s.setSchedule l).mem = s.mem := rfl
@[simp] theorem State.setSchedule_cfg (l : List Op) : (s.setSchedule l).cfg = s.cfg := rfl
@[simp] theorem State.setSchedule_env (l : List Op) : (s.setSchedule l).env = { s.env with schedule := l } := rfl
@[simp] theorem State.setSchedule_getV (l : List Op) (j : Nibble) : (s.setSchedule l).getV j = s.getV j := rfl
@[simp] theorem State.setSchedule_memRead (l : List Op) (q : Nat) : (s.setSchedule l).memRead q = s.memRead q := rfl
@[simp] theorem State.setSchedule_pixel (l : List Op) (y : Fin 32) (u : Fin 64) : (s.setSchedule l).pixel y u = s.pixel y u := rfl
@[simp] theorem State.setSchedule_keyDown (l : List Op) (q : Nibble) : (s.setSchedule l).keyDown q = s.keyDown q := rfl

/-! loadBlock -/

@[simp] theorem State.loadBlock_v (x : Nibble) (a : Nat) : (s.loadBlock x a).v = Vector.ofFn fun j => if j.val ≤ x.toNat then s.memRead (a + j.val) else s.v[j] := rfl
@[simp] theorem State.loadBlock_i (x : Nibble) (a : Nat) : (s.loadBlock x a).i = s.i := rfl
@[simp] theorem State.loadBlock_pc (x : Nibble) (a : Nat) : (s.loadBlock x a).pc = s.pc := rfl
@[simp] theorem State.loadBlock_stack (x : Nibble) (a : Nat) : (s.loadBlock x a).stack = s.stack := rfl
@[simp] theorem State.loadBlock_sp (x : Nibble) (a : Nat) : (s.loadBlock x a).sp = s.sp := rfl
@[simp] theorem State.loadBlock_dt (x : Nibble) (a : Nat) : (s.loadBlock x a).dt = s.dt := rfl
@[simp] theorem State.loadBlock_st (x : Nibble) (a : Nat) : (s.loadBlock x a).st = s.st := rfl
@[simp] theorem State.loadBlock_fb (x : Nibble) (a : Nat) : (s.loadBlock x a).fb = s.fb := rfl
@[simp] theorem State.loadBlock_keys (x : Nibble) (a : Nat) : (s.loadBlock x a).keys = s.keys := rfl
@[simp] theorem State.loadBlock_wait (x : Nibble) (a : Nat) : (s.loadBlock x a).wait = s.wait := rfl
@[simp] theorem State.loadBlock_waitReg (x : Nibble) (a : Nat) : (s.loadBlock x a).waitReg = s.waitReg := rfl
@[simp] theorem State.loadBlock_kevt (x : Nibble) (a : Nat) : (s.loadBlock x a).kevt = s.kevt := rfl
@[simp] theorem State.loadBlock_kcode (x : Nibble) (a : Nat) : (s.loadBlock x a).kcode = s.kcode := rfl
@[simp] theorem State.loadBlock_run (x : Nibble) (a : Nat) : (s.loadBlock x a).run = s.run := rfl
@[simp] theorem State.loadBlock_fcode (x : Nibble) (a : Nat) : (s.loadBlock x a).fcode = s.fcode := rfl
@[simp] theorem State.loadBlock_fpc (x : Nibble) (a : Nat) : (s.loadBlock x a).fpc = s.fpc := rfl
@[simp] theorem State.loadBlock_fop (x : Nibble) (a : Nat) : (s.loadBlock x a).fop = s.fop := rfl
@[simp] theorem State.loadBlock_mem (x : Nibble) (a : Nat) : (s.loadBlock x a).mem = s.mem := rfl
@[simp] theorem State.loadBlock_cfg (x : Nibble) (a : Nat) : (s.loadBlock x a).cfg = s.cfg := rfl
@[simp] theorem State.loadBlock_env (x : Nibble) (a : Nat) : (s.loadBlock x a).env = s.env := rfl
@[simp] theorem State.loadBlock_memRead (x : Nibble) (a : Nat) (q : Nat) : (s.loadBlock x a).memRead q = s.memRead q := rfl
@[simp] theorem State.loadBlock_pixel (x : Nibble) (a : Nat) (y : Fin 32) (u : Fin 64) : (s.loadBlock x a).pixel y u = s.pixel y u := rfl
@[simp] theorem State.loadBlock_keyDown (x : Nibble) (a : Nat) (q : Nibble) : (s.loadBlock x a).keyDown q = s.keyDown q := rfl

/-! skipIf -/

@[simp] theorem State.skipIf_pc (c : Bool) : (s.skipIf c).pc = if c then s.pc + 2 else s.pc := by
  cases c <;> rfl
@[simp] theorem State.skipIf_v (c : Bool) : (s.skipIf c).v = s.v := by cases c <;> rfl
@[simp] theorem State.skipIf_i (c : Bool) : (s.skipIf c).i = s.i := by cases c <;> rfl
@[simp] theorem State.skipIf_stack (c : Bool) : (s.skipIf c).stack = s.stack := by cases c <;> rfl
@[simp] theorem State.skipIf_sp (c : Bool) : (s.skipIf c).sp = s.sp := by cases c <;> rfl
@[simp] theorem State.skipIf_dt (c : Bool) : (s.skipIf c).dt = s.dt := by cases c <;> rfl
@[simp] theorem State.skipIf_st (c : Bool) : (s.skipIf c).st = s.st := by cases c <;> rfl
@[simp] theorem State.skipIf_fb (c : Bool) : (s.skipIf c).fb = s.fb := by cases c <;> rfl
@[simp] theorem State.skipIf_keys (c : Bool) : (s.skipIf c).keys = s.keys := by cases c <;> rfl
@[simp] theorem State.skipIf_wait (c : Bool) : (s.skipIf c).wait = s.wait := by cases c <;> rfl
@[simp] theorem State.skipIf_waitReg (c : Bool) : (s.skipIf c).waitReg = s.waitReg := by cases c <;> rfl
@[simp] theorem State.skipIf_kevt (c : Bool) : (s.skipIf c).kevt = s.kevt := by cases c <;> rfl
@[simp] theorem State.skipIf_kcode (c : Bool) : (s.skipIf c).kcode = s.kcode := by cases c <;> rfl
@[simp] theorem State.skipIf_run (c : Bool) : (s.skipIf c).run = s.run := by cases c <;> rfl
@[simp] theorem State.skipIf_fcode (c : Bool) : (s.skipIf c).fcode = s.fcode := by cases c <;> rfl
@[simp] theorem State.skipIf_fpc (c : Bool) : (s.skipIf c).fpc = s.fpc := by cases c <;> rfl
@[simp] theorem State.skipIf_fop (c : Bool) : (s.skipIf c).fop = s.fop := by cases c <;> rfl
@[simp] theorem State.skipIf_mem (c : Bool) : (s.skipIf c).mem = s.mem := by cases c <;> rfl
@[simp] theorem State.skipIf_cfg (c : Bool) : (s.skipIf c).cfg = s.cfg := by cases c <;> rfl
@[simp] theorem State.skipIf_env (c : Bool) : (s.skipIf c).env = s.env := by cases c <;> rfl
@[simp] theorem State.skipIf_getV (c : Bool) (j : Nibble) : (s.skipIf c).getV j = s.getV j := by cases c <;> rfl
@[simp] theorem State.skipIf_memRead (c : Bool) (q : Nat) : (s.skipIf c).memRead q = s.memRead q := by cases c <;> rfl
@[simp] theorem State.skipIf_pixel (c : Bool) (y : Fin 32) (u : Fin 64) : (s.skipIf c).pixel y u = s.pixel y u := by cases c <;> rfl
@[simp] theorem State.skipIf_keyDown (c : Bool) (q : Nibble) : (s.skipIf c).keyDown q = s.keyDown q := by cases c <;> rfl

/-! drawn: only the environment's draw counter moves -/

@[simp] theorem State.drawn_v : s.drawn.v = s.v := by unfold State.drawn; split <;> rfl
@[simp] theorem State.drawn_i : s.drawn.i = s.i := by unfold State.drawn; split <;> rfl
@[simp] theorem State.drawn_pc : s.drawn.pc = s.pc := by unfold State.drawn; split <;> rfl
@[simp] theorem State.drawn_stack : s.drawn.stack = s.stack := by unfold State.drawn; split <;> rfl
@[simp] theorem State.drawn_sp : s.drawn.sp = s.sp := by unfold State.drawn; split <;> rfl
@[simp] theorem State.drawn_dt : s.drawn.dt = s.dt := by unfold State.drawn; split <;> rfl
@[simp] theorem State.drawn_st : s.drawn.st = s.st := by unfold State.drawn; split <;> rfl
@[simp] theorem State.drawn_fb : s.drawn.fb = s.fb := by unfold State.drawn; split <;> rfl
@[simp] theorem State.drawn_keys : s.drawn.keys = s.keys := by unfold State.drawn; split <;> rfl
@[simp] theorem State.drawn_wait : s.drawn.wait = s.wait := by unfold State.drawn; split <;> rfl
@[simp] theorem State.drawn_waitReg : s.drawn.waitReg = s.waitReg := by unfold State.drawn; split <;> rfl
@[simp] theorem State.drawn_kevt : s.drawn.kevt = s.kevt := by unfold State.drawn; split <;> rfl
@[simp] theorem State.drawn_kcode : s.drawn.kcode = s.kcode := by unfold State.drawn; split <;> rfl
@[simp] theorem State.drawn_run : s.drawn.run = s.run := by unfold State.drawn; split <;> rfl
@[simp] theorem State.drawn_fcode : s.drawn.fcode = s.fcode := by unfold State.drawn; split <;> rfl
@[simp] theorem State.drawn_fpc : s.drawn.fpc = s.fpc := by unfold State.drawn; split <;> rfl
@[simp] theorem State.drawn_fop : s.drawn.fop = s.fop := by unfold State.drawn; split <;> rfl
@[simp] theorem State.drawn_mem : s.drawn.mem = s.mem := by unfold State.drawn; split <;> rfl
@[simp] theorem State.drawn_cfg : s.drawn.cfg = s.cfg := by unfold State.drawn; split <;> rfl
@[simp] theorem State.drawn_getV (j : Nibble) : s.drawn.getV j = s.getV j := by unfold State.drawn; split <;> rfl
@[simp] theorem State.drawn_memRead (q : Nat) : s.drawn.memRead q = s.memRead q := by unfold State.drawn; split <;> rfl
@[simp] theorem State.drawn_pixel (y : Fin 32) (u : Fin 64) : s.drawn.pixel y u = s.pixel y u := by unfold State.drawn; split <;> rfl
@[simp] theorem State.drawn_keyDown (q : Nibble) : s.drawn.keyDown q = s.keyDown q := by unfold State.drawn; split <;> rfl
@[simp] theorem State.drawn_schedule : s.drawn.env.schedule = s.env.schedule := by unfold State.drawn; split <;> rfl
@[simp] theorem State.drawn_rndArg : s.drawn.env.rndArg = s.env.rndArg := by unfold State.drawn; split <;> rfl

/-! writeBytes: only memory moves -/

@[simp] theorem State.writeBytes_v (a : Nat) (bs : List Byte) : (s.writeBytes a bs).v = s.v := by
  induction bs generalizing s a with
  | nil => rfl
  | cons b bs ih => exact ih _ _
@[simp] theorem State.writeBytes_i (a : Nat) (bs : List Byte) : (s.writeBytes a bs).i = s.i := by
  induction bs generalizing s a with
  | nil => rfl
  | cons b bs ih => exact ih _ _
@[simp] theorem State.writeBytes_pc (a : Nat) (bs : List Byte) : (s.writeBytes a bs).pc = s.pc := by
  induction bs generalizing s a with
  | nil => rfl
  | cons b bs ih => exact ih _ _
@[simp] theorem State.writeBytes_stack (a : Nat) (bs : List Byte) : (s.writeBytes a bs).stack = s.stack := by
  induction bs generalizing s a with
  | nil => rfl
  | cons b bs ih => exact ih _ _
@[simp] theorem State.writeBytes_sp (a : Nat) (bs : List Byte) : (s.writeBytes a bs).sp = s.sp := by
  induction bs generalizing s a with
  | nil => rfl
  | cons b bs ih => exact ih _ _
@[simp] theorem State.writeBytes_dt (a : Nat) (bs : List Byte) : (s.writeBytes a bs).dt = s.dt := by
  induction bs generalizing s a with
  | nil => rfl
  | cons b bs ih => exact ih _ _
@[simp] theorem State.writeBytes_st (a : Nat) (bs : List Byte) : (s.writeBytes a bs).st = s.st := by
  induction bs generalizing s a with
  | nil => rfl
  | cons b bs ih => exact ih _ _
@[simp] theorem State.writeBytes_fb (a : Nat) (bs : List Byte) : (s.writeBytes a bs).fb = s.fb := by
  induction bs generalizing s a with
  | nil => rfl
  | cons b bs ih => exact ih _ _
@[simp] theorem State.writeBytes_keys (a : Nat) (bs : List Byte) : (s.writeBytes a bs).keys = s.keys := by
  induction bs generalizing s a with
  | nil => rfl
  | cons b bs ih => exact ih _ _
@[simp] theorem State.writeBytes_wait (a : Nat) (bs : List Byte) : (s.writeBytes a bs).wait = s.wait := by
  induction bs generalizing s a with
  | nil => rfl
  | cons b bs ih => exact ih _ _
@[simp] theorem State.writeBytes_waitReg (a : Nat) (bs : List Byte) : (s.writeBytes a bs).waitReg = s.waitReg := by
  induction bs generalizing s a with
  | nil => rfl
  | cons b bs ih => exact ih _ _
@[simp] theorem State.writeBytes_kevt (a : Nat) (bs : List Byte) : (s.writeBytes a bs).kevt = s.kevt := by
  induction bs generalizing s a with
  | nil => rfl
  | cons b bs ih => exact ih _ _
@[simp] theorem State.writeBytes_kcode (a : Nat) (bs : List Byte) : (s.writeBytes a bs).kcode = s.kcode := by
  induction bs generalizing s a with
  | nil => rfl
  | cons b bs ih => exact ih _ _
@[simp] theorem State.writeBytes_run (a : Nat) (bs : List Byte) : (s.writeBytes a bs).run = s.run := by
  induction bs generalizing s a with
  | nil => rfl
  | cons b bs ih => exact ih _ _
@[simp] theorem State.writeBytes_fcode (a : Nat) (bs : List Byte) : (s.writeBytes a bs).fcode = s.fcode := by
  induction bs generalizing s a with
  | nil => rfl
  | cons b bs ih => exact ih _ _
@[simp] theorem State.writeBytes_fpc (a : Nat) (bs : List Byte) : (s.writeBytes a bs).fpc = s.fpc := by
  induction bs generalizing s a with
  | nil => rfl
  | cons b bs ih => exact ih _ _
@[simp] theorem State.writeBytes_fop (a : Nat) (bs : List Byte) : (s.writeBytes a bs).fop = s.fop := by
  induction bs generalizing s a with
  | nil => rfl
  | cons b bs ih => exact ih _ _
@[simp] theorem State.writeBytes_cfg (a : Nat) (bs : List Byte) : (s.writeBytes a bs).cfg = s.cfg := by
  induction bs generalizing s a with
  | nil => rfl
  | cons b bs ih => exact ih _ _
@[simp] theorem State.writeBytes_env (a : Nat) (bs : List Byte) : (s.writeBytes a bs).env = s.env := by
  induction bs generalizing s a with
  | nil => rfl
  | cons b bs ih => exact ih _ _
@[simp] theorem State.writeBytes_getV (a : Nat) (bs : List Byte) (j : Nibble) : (s.writeBytes a bs).getV j = s.getV j := by
  simp [State.getV]
@[simp] theorem State.writeBytes_pixel (a : Nat) (bs : List Byte) (y : Fin 32) (u : Fin 64) : (s.writeBytes a bs).pixel y u = s.pixel y u := by
  simp [State.pixel]
@[simp] theorem State.writeBytes_keyDown (a : Nat) (bs : List Byte) (q : Nibble) : (s.writeBytes a bs).keyDown q = s.keyDown q := by
  simp [State.keyDown]

/-! raise and setVFlag, through the updates they are built from -/

/-- A fault in execution is a fault entry with PC - 2 and the instruction's own word (R146). -/
theorem State.raise_eq (c : FaultCode) (i : Instr) : s.raise c i = s.takeFault c (s.pc - 2) (encode i) := rfl

/-- A result with a flag is two register writes, the flag last (R86). -/
theorem State.setVFlag_eq (x : Nibble) (r f : Byte) : s.setVFlag x r f = (s.setV x r).setV vf f := rfl

/-- The default advance is a write of PC (R58). -/
theorem State.advance_eq : s.advance = s.setPc (s.pc + 2) := rfl

end Sys2Proof.Machine
end

