-- ==== Sys2Proof/Laws/Register.lean ====
section
/-! SUPPORT. Register, keypad and stack reads after the writes of Machine/Ops.lean and Operands.lean. -/

namespace Sys2Proof.Machine

variable (s : State)

/-- A register read after a register write. -/
@[simp] theorem State.getV_setV (x r : Nibble) (b : Byte) :
    (s.setV x b).getV r = if r = x then b else s.getV r := by
  simp [State.getV, Vector.getElem_set, BitVec.toNat_inj, eq_comm]

/-- A register read after a result and its flag: VF holds the flag whatever `x` is (R86). -/
theorem State.getV_setVFlag (x r : Nibble) (b f : Byte) :
    (s.setVFlag x b f).getV r = if r = vf then f else if r = x then b else s.getV r := by
  simp [State.setVFlag_eq]

/-- A register read after a block load (R105). -/
@[simp] theorem State.getV_loadBlock (x r : Nibble) (a : Nat) :
    (s.loadBlock x a).getV r = if r.toNat ≤ x.toNat then s.memRead (a + r.toNat) else s.getV r := by
  simp [State.getV, State.loadBlock]

/-- The register block that Fx55 stores has x + 1 bytes (R104). -/
@[simp] theorem State.regBlock_length (x : Nibble) : (s.regBlock x).length = x.toNat + 1 := by
  have := x.isLt
  simp [State.regBlock]
  omega

/-- Byte `j` of the block that Fx55 stores is V[j] (R104). -/
theorem State.regBlock_getElem (x : Nibble) (j : Nat) (h : j < (s.regBlock x).length) :
    (s.regBlock x)[j] = s.getV (BitVec.ofNat 4 j) := by
  have hx := x.isLt
  have hj : j < 16 := by simp at h; omega
  have e : (BitVec.ofNat 4 j).toNat = j := by simp; omega
  simp [State.regBlock, State.getV, e]

/-- A key read after a press (R120). -/
@[simp] theorem State.keyDown_setKey (k q : Nibble) :
    (s.setKey k).keyDown q = if q = k then true else s.keyDown q := by
  by_cases h : q = k
  · subst h; simp [State.keyDown, State.setKey, q.isLt]
  · have : k.toNat ≠ q.toNat := fun e => h (BitVec.eq_of_toNat_eq e.symm)
    simp [State.keyDown, State.setKey, BitVec.getLsbD_twoPow, h, this]

/-- A key read after a release (R121). -/
@[simp] theorem State.keyDown_clearKey (k q : Nibble) :
    (s.clearKey k).keyDown q = if q = k then false else s.keyDown q := by
  have hq := q.isLt
  by_cases h : q = k
  · subst h; simp [State.keyDown, State.clearKey, BitVec.getLsbD_twoPow]
  · have : k.toNat ≠ q.toNat := fun e => h (BitVec.eq_of_toNat_eq e.symm)
    simp [State.keyDown, State.clearKey, h, hq]; exact fun _ => this.symm

/-- A pop reads back what was pushed, and returns SP (R66, R67). -/
theorem State.top_push (w : Word) (h : s.sp.val < 16) :
    (s.push w h).top (by simp) = w ∧ (s.push w h).pop.sp = s.sp := by
  constructor
  · simp [State.top, State.push]
  · apply Fin.ext; simp

/-- SP = 16 is the only full stack (R16). -/
theorem State.sp_full_iff : ¬ s.sp.val < 16 ↔ s.sp = 16 := by
  have := s.sp.isLt
  constructor
  · intro h; apply Fin.ext; simp; omega
  · intro h; simp [h]

/-- SP = 0 is the only empty stack (R16). -/
theorem State.sp_empty_iff : ¬ 0 < s.sp.val ↔ s.sp = 0 := by
  constructor
  · intro h; apply Fin.ext; simp; omega
  · intro h; simp [h]

end Sys2Proof.Machine
end

