-- ==== Sys2Proof/Laws/Memory.lean ====
section
/-! SUPPORT. Memory: a read after a write, and the canonical form kept by every operation. -/

namespace Sys2Proof.Machine

variable {c : Config} {m : Memory}

theorem wrapAddr_lt (a : Nat) : wrapAddr a < 4096 := Nat.mod_lt _ (by decide)

/-- Reading an address above which the list starts gives the background. -/
theorem Memory.read_of_lt {a : Nat} (h : ∀ e ∈ m, a < e.1) : Memory.read c m a = Memory.background c a := by
  induction m with
  | nil => rfl
  | cons e rest ih =>
    have he : a < e.1 := h e (by simp)
    simp only [Memory.read, if_neg (Nat.ne_of_gt he)]
    exact ih fun q hq => h q (by simp [hq])

/-- A read after a put. -/
theorem Memory.read_put (a q : Nat) (b : Byte) :
    Memory.read c (Memory.put m a b) q = if q = a then b else Memory.read c m q := by
  induction m with
  | nil => simp only [Memory.put, Memory.read, eq_comm]
  | cons e rest ih =>
    simp only [Memory.put]
    split
    · simp only [Memory.read, eq_comm]
    · split
      · next h => subst h; simp only [Memory.read]; by_cases h : q = e.1 <;> simp [h, eq_comm]
      · next h1 h2 =>
        simp only [Memory.read, ih]
        by_cases h : e.1 = q
        · subst h; simp [Ne.symm h2]
        · simp [h]

/-- A read after an erase of a rising list. -/
theorem Memory.read_erase (h : m.Pairwise fun p q => p.1 < q.1) (a q : Nat) :
    Memory.read c (Memory.erase m a) q = if q = a then Memory.background c a else Memory.read c m q := by
  induction m with
  | nil => by_cases h : q = a <;> simp [Memory.erase, Memory.read, h]
  | cons e rest ih =>
    rw [List.pairwise_cons] at h
    simp only [Memory.erase]
    split
    · next hae =>
      by_cases hq : q = a
      · subst hq hae; rw [if_pos rfl]; exact Memory.read_of_lt h.1
      · rw [if_neg hq]; simp [Memory.read, ← hae, Ne.symm hq]
    · next hae =>
      simp only [Memory.read, ih h.2]
      by_cases hq : e.1 = q
      · subst hq; simp [Ne.symm hae]
      · simp [hq]

/-- A read after a write (R34). -/
theorem Memory.read_write (h : Memory.wf c m) (a q : Nat) (b : Byte) :
    Memory.read c (Memory.write c m a b) q = if q = a then b else Memory.read c m q := by
  unfold Memory.write
  split
  · next hb => rw [Memory.read_erase h.1, hb]
  · exact Memory.read_put a q b

theorem Memory.mem_put {a : Nat} {b : Byte} {e : Host.Cell} (h : e ∈ Memory.put m a b) : e = (a, b) ∨ e ∈ m := by
  induction m with
  | nil => simp [Memory.put] at h; exact .inl h
  | cons f rest ih =>
    simp only [Memory.put] at h
    split at h
    · simpa using h
    · split at h
      · simp at h ⊢; tauto
      · rcases List.mem_cons.1 h with h | h
        · simp [h]
        · rcases ih h with h | h <;> simp [h]

theorem Memory.mem_erase {a : Nat} {e : Host.Cell} (h : e ∈ Memory.erase m a) : e ∈ m := by
  induction m with
  | nil => exact h
  | cons f rest ih =>
    simp only [Memory.erase] at h
    split at h
    · simp [h]
    · rcases List.mem_cons.1 h with h | h
      · simp [h]
      · simp [ih h]

theorem Memory.put_pairwise (h : m.Pairwise fun p q => p.1 < q.1) (a : Nat) (b : Byte) :
    (Memory.put m a b).Pairwise fun p q => p.1 < q.1 := by
  induction m with
  | nil => simp [Memory.put]
  | cons e rest ih =>
    have h' := List.pairwise_cons.1 h
    simp only [Memory.put]
    split
    · next hlt =>
      refine List.pairwise_cons.2 ⟨fun q hq => ?_, h⟩
      rcases List.mem_cons.1 hq with rfl | hq
      · exact hlt
      · exact lt_trans hlt (h'.1 q hq)
    · split
      · next _ heq => exact List.pairwise_cons.2 ⟨fun q hq => by subst heq; exact h'.1 q hq, h'.2⟩
      · next h1 h2 =>
        refine List.pairwise_cons.2 ⟨fun q hq => ?_, ih h'.2⟩
        rcases Memory.mem_put hq with rfl | hq
        · show e.1 < a; omega
        · exact h'.1 q hq

theorem Memory.erase_pairwise (h : m.Pairwise fun p q => p.1 < q.1) (a : Nat) :
    (Memory.erase m a).Pairwise fun p q => p.1 < q.1 := by
  induction m with
  | nil => exact h
  | cons e rest ih =>
    have h' := List.pairwise_cons.1 h
    simp only [Memory.erase]
    split
    · exact h'.2
    · exact List.pairwise_cons.2 ⟨fun q hq => h'.1 q (Memory.mem_erase hq), ih h'.2⟩

/-- A write below 4096 keeps the canonical form. -/
theorem Memory.write_wf (h : Memory.wf c m) {a : Nat} (ha : a < 4096) (b : Byte) :
    Memory.wf c (Memory.write c m a b) := by
  unfold Memory.write
  split
  · exact ⟨Memory.erase_pairwise h.1 a, fun e he => h.2 e (Memory.mem_erase he)⟩
  · next hb =>
    refine ⟨Memory.put_pairwise h.1 a b, fun e he => ?_⟩
    rcases Memory.mem_put he with rfl | he
    · exact ⟨ha, hb⟩
    · exact h.2 e he

/-- Memory after reset has the canonical form, whatever the configuration. -/
theorem Memory.nil_wf (c : Config) : Memory.wf c [] := by simp [Memory.wf]

variable (s : State)

/-- A read after one byte written, over the whole address space (R33, R34). -/
theorem State.memRead_memWrite (h : Memory.wf s.cfg s.mem) (a q : Nat) (b : Byte) :
    (s.memWrite a b).memRead q = if wrapAddr q = wrapAddr a then b else s.memRead q :=
  Memory.read_write h _ _ b

/-- One byte written keeps the canonical form. -/
theorem State.memWrite_wf (h : Memory.wf s.cfg s.mem) (a : Nat) (b : Byte) :
    Memory.wf (s.memWrite a b).cfg (s.memWrite a b).mem := Memory.write_wf h (wrapAddr_lt a) b

/-- A block written keeps the canonical form. -/
theorem State.writeBytes_wf (h : Memory.wf s.cfg s.mem) (a : Nat) (bs : List Byte) :
    Memory.wf (s.writeBytes a bs).cfg (s.writeBytes a bs).mem := by
  induction bs generalizing s a with
  | nil => exact h
  | cons b bs ih => exact ih _ (s.memWrite_wf h a b) _

/-- A read outside a written block gives what it gave before (R36). -/
theorem State.memRead_writeBytes_outside (h : Memory.wf s.cfg s.mem) (a q : Nat) (bs : List Byte)
    (hq : ∀ j < bs.length, wrapAddr (a + j) ≠ wrapAddr q) : (s.writeBytes a bs).memRead q = s.memRead q := by
  induction bs generalizing s a with
  | nil => rfl
  | cons b bs ih =>
    have h0 : wrapAddr q ≠ wrapAddr a := fun e => hq 0 (by simp) (by simpa using e.symm)
    rw [State.writeBytes, ih _ (s.memWrite_wf h a b), State.memRead_memWrite _ h, if_neg h0]
    intro j hj
    have := hq (j + 1) (by simpa using hj)
    rwa [show a + 1 + j = a + (j + 1) by omega]

/-- A read inside a written block of at most 4096 bytes gives the byte written (R36). -/
theorem State.memRead_writeBytes_inside (h : Memory.wf s.cfg s.mem) (a j : Nat) (bs : List Byte)
    (hl : bs.length ≤ 4096) (hj : j < bs.length) : (s.writeBytes a bs).memRead (a + j) = bs[j] := by
  induction bs generalizing s a j with
  | nil => simp at hj
  | cons b bs ih =>
    rw [State.writeBytes]
    cases j with
    | zero =>
      rw [State.memRead_writeBytes_outside _ (s.memWrite_wf h a b), State.memRead_memWrite _ h]
      · simp
      · intro k hk
        simp only [List.length_cons] at hl
        simp only [wrapAddr]
        omega
    | succ j =>
      have := ih _ (s.memWrite_wf h a b) (a + 1) j (by simp at hl; omega) (by simpa using hj)
      rw [show a + (j + 1) = a + 1 + j by omega, this]
      simp

/-- Bytes read one after another (R36). -/
@[simp] theorem State.readBytes_length (a n : Nat) : (s.readBytes a n).length = n := by simp [State.readBytes]

theorem State.readBytes_getElem (a n j : Nat) (h : j < (s.readBytes a n).length) :
    (s.readBytes a n)[j] = s.memRead (a + j) := by simp [State.readBytes]

/-- The word placed for a fetch is the word fetched, when no address of it faults (R35). -/
theorem State.fetch_placeWord (h : Memory.wf s.cfg s.mem) (hp : addrFaults s.cfg s.pc.toNat = false)
    (hq : addrFaults s.cfg (s.pc + 1).toNat = false) (op : Word) : (s.placeWord op).fetch = some op := by
  have hne : wrapAddr s.pc.toNat ≠ wrapAddr (s.pc + 1).toNat := by
    have := s.pc.isLt
    have h1 : (1 : Word).toNat = 1 := rfl
    simp only [wrapAddr, BitVec.toNat_add, h1]
    omega
  have r1 := State.memRead_memWrite (s.memWrite s.pc.toNat (op.extractLsb' 8 8)) (s.memWrite_wf h _ _)
    (s.pc + 1).toNat s.pc.toNat (op.extractLsb' 0 8)
  have r2 := State.memRead_memWrite (s.memWrite s.pc.toNat (op.extractLsb' 8 8)) (s.memWrite_wf h _ _)
    (s.pc + 1).toNat (s.pc + 1).toNat (op.extractLsb' 0 8)
  rw [if_neg hne, State.memRead_memWrite _ h, if_pos rfl] at r1
  rw [if_pos rfl] at r2
  simp only [State.memRead, State.memWrite_cfg] at r1 r2
  simp only [State.fetch, State.placeWord, State.memWrite_cfg, State.memWrite_pc, ea, hp, hq]
  simp only [Bool.false_eq_true, if_false, r1, r2, wordOfBytes, Option.some.injEq]
  apply BitVec.eq_of_getLsbD_eq
  intro i hi
  simp only [BitVec.getLsbD_append, BitVec.getLsbD_extractLsb']
  by_cases h8 : i < 8
  · simp [h8]
  · simp [h8, show i - 8 < 8 by omega, show 8 + (i - 8) = i by omega]

/-- When a block faults (R36). -/
theorem State.blockFaults_iff (a n : Nat) :
    s.blockFaults a n = true ↔ s.cfg.addrPolicy = .fault ∧ 1 ≤ n ∧ a + n - 1 > 0xFFF := by
  simp only [State.blockFaults, decide_eq_true_iff]

end Sys2Proof.Machine
end

