-- ==== Sys2Proof/Laws/Display.lean ====
section
/-! SUPPORT. The pixels a sprite toggles (43_display.md R113): they are distinct, they are the set
`State.toggles` describes, and toggling distinct pixels inverts exactly them. -/

namespace Sys2Proof.Machine

/-- A frame's pixel. -/
theorem pixel_xorPixel (fc : Vector (BitVec 64) 32 × Bool) (p : Fin 32 × Fin 64) (y : Fin 32) (x : Fin 64) :
    (xorPixel fc p).1[y].getLsbD x = (fc.1[y].getLsbD x ^^ decide ((y, x) = p)) := by
  obtain ⟨py, px⟩ := p
  simp only [xorPixel, Fin.getElem_fin, Vector.getElem_set, Prod.mk.injEq]
  by_cases hy : py.val = y.val
  · have hy' : y = py := Fin.ext hy.symm
    subst hy'
    simp [Fin.ext_iff]
  · have hy' : ¬ y = py := fun e => hy (by rw [e])
    simp [hy, hy']

/-- Toggling a list of distinct pixels inverts exactly the pixels in it, and the collision is set when
one of them was on (R113, R114 (3)). -/
theorem foldl_xorPixel (ps : List (Fin 32 × Fin 64)) (hn : ps.Nodup) (fc : Vector (BitVec 64) 32 × Bool) :
    (∀ (y : Fin 32) (x : Fin 64),
      (ps.foldl xorPixel fc).1[y].getLsbD x = (fc.1[y].getLsbD x ^^ decide ((y, x) ∈ ps))) ∧
    ((ps.foldl xorPixel fc).2 = (fc.2 || ps.any fun p => fc.1[p.1].getLsbD p.2)) := by
  induction ps generalizing fc with
  | nil => simp
  | cons p ps ih =>
    obtain ⟨hp, hn⟩ := List.nodup_cons.1 hn
    obtain ⟨ih1, ih2⟩ := ih hn (xorPixel fc p)
    constructor
    · intro y x
      rw [List.foldl_cons, ih1, pixel_xorPixel]
      by_cases h : (y, x) = p
      · subst h; simp [hp]
      · simp [h]
    · rw [List.foldl_cons, ih2, List.any_cons, ← Bool.or_assoc]
      have e : ∀ q ∈ ps, (xorPixel fc p).1[q.1].getLsbD q.2 = fc.1[q.1].getLsbD q.2 := by
        intro q hq
        rw [pixel_xorPixel]
        have : (q.1, q.2) ≠ p := fun e => hp (by rw [← e]; exact hq)
        simp [this]
      congr 1
      rw [Bool.eq_iff_iff, List.any_eq_true, List.any_eq_true]
      exact ⟨fun ⟨q, h1, h2⟩ => ⟨q, h1, by rw [← e q h1]; exact h2⟩, fun ⟨q, h1, h2⟩ => ⟨q, h1, by rw [e q h1]; exact h2⟩⟩

/-- Where `landing` puts a sprite pixel (R113). -/
theorem landing_eq_some (wrap : Bool) (px py : Nat) (y : Fin 32) (x : Fin 64) :
    landing wrap px py = some (y, x) ↔
      if wrap then px % 64 = x.val ∧ py % 32 = y.val else px = x.val ∧ py = y.val := by
  have hx := x.isLt
  have hy := y.isLt
  cases wrap
  · simp only [landing, Bool.false_eq_true, if_false]
    split
    · simp [Fin.ext_iff, and_comm]
    · simp; omega
  · simp [landing, Fin.ext_iff, Fin.ofNat, and_comm]

/-- The pixels of one sprite row. -/
theorem mem_rowPixels (wrap : Bool) (x0 py : Nat) (b : Byte) (y : Fin 32) (x : Fin 64) :
    (y, x) ∈ rowPixels wrap x0 py b ↔
      ∃ c < 8, b.getLsbD (7 - c) = true ∧
        if wrap then (x0 + c) % 64 = x.val ∧ py % 32 = y.val else x0 + c = x.val ∧ py = y.val := by
  simp only [rowPixels, List.mem_filterMap, List.mem_range]
  refine exists_congr fun c => and_congr_right fun _ => ?_
  by_cases hb : b.getLsbD (7 - c) = true
  · simp only [hb, if_true, true_and]; exact landing_eq_some _ _ _ _ _
  · simp [hb]

/-- The pixels of a sprite. -/
theorem mem_spritePixels (wrap : Bool) (x0 y0 : Nat) (bs : List Byte) (y : Fin 32) (x : Fin 64) :
    (y, x) ∈ spritePixels wrap x0 y0 bs ↔
      ∃ r, ∃ h : r < bs.length, ∃ c < 8, bs[r].getLsbD (7 - c) = true ∧
        if wrap then (x0 + c) % 64 = x.val ∧ (y0 + r) % 32 = y.val else x0 + c = x.val ∧ y0 + r = y.val := by
  induction bs generalizing y0 with
  | nil => simp [spritePixels]
  | cons b bs ih =>
    rw [spritePixels, List.mem_append, mem_rowPixels, ih]
    constructor
    · rintro (h | ⟨r, hr, h⟩)
      · exact ⟨0, by simp, by simpa using h⟩
      · refine ⟨r + 1, by simpa using hr, ?_⟩
        simpa [Nat.add_assoc, Nat.add_comm 1 r] using h
    · rintro ⟨r, hr, h⟩
      cases r with
      | zero => left; simpa using h
      | succ r =>
        right
        refine ⟨r, by simpa using hr, ?_⟩
        simpa [Nat.add_assoc, Nat.add_comm 1 r] using h

/-- A sprite row lands on distinct pixels: its 8 columns are distinct also modulo 64. -/
theorem rowPixels_nodup (wrap : Bool) (x0 py : Nat) (b : Byte) : (rowPixels wrap x0 py b).Nodup := by
  unfold rowPixels
  rw [List.Nodup, List.pairwise_filterMap]
  refine List.nodup_range.imp_of_mem ?_
  intro c d hc hd hcd p hp q hq e
  subst e
  obtain ⟨y, x⟩ := p
  simp only [List.mem_range] at hc hd
  split at hp
  · split at hq
    · have h1 := (landing_eq_some _ _ _ _ _).1 hp
      have h2 := (landing_eq_some _ _ _ _ _).1 hq
      cases wrap <;> simp at h1 h2 <;> omega
    · simp at hq
  · simp at hp

/-- A sprite of at most 32 rows lands on distinct pixels. -/
theorem spritePixels_nodup (wrap : Bool) (x0 y0 : Nat) (bs : List Byte) (hl : bs.length ≤ 32) :
    (spritePixels wrap x0 y0 bs).Nodup := by
  induction bs generalizing y0 with
  | nil => simp [spritePixels]
  | cons b bs ih =>
    rw [spritePixels, List.nodup_append]
    refine ⟨rowPixels_nodup _ _ _ _, ih _ (by simp at hl; omega), ?_⟩
    rintro ⟨y, x⟩ hp ⟨y', x'⟩ hq e
    cases e
    obtain ⟨c, _, _, h1⟩ := (mem_rowPixels _ _ _ _ _ _).1 hp
    obtain ⟨r, hr, d, _, _, h2⟩ := (mem_spritePixels _ _ _ _ _ _).1 hq
    simp only [List.length_cons] at hl
    cases wrap <;> simp at h1 h2 <;> omega

variable (s : State)

/-- `DRW` toggles distinct pixels. -/
theorem State.drawPixels_nodup (x y n : Nibble) : (s.drawPixels x y n).Nodup := by
  have := n.isLt
  exact spritePixels_nodup _ _ _ _ (by rw [State.readBytes_length]; omega)

/-- The pixels `DRW` toggles are those `State.toggles` describes (R113). -/
theorem State.mem_drawPixels (x y n : Nibble) (py : Fin 32) (px : Fin 64) :
    (py, px) ∈ s.drawPixels x y n ↔ s.toggles x y n py px := by
  rw [State.drawPixels, mem_spritePixels]
  constructor
  · rintro ⟨r, hr, c, hc, hb, h⟩
    rw [State.readBytes_length] at hr
    rw [State.readBytes_getElem] at hb
    exact ⟨r, c, hr, hc, hb, h⟩
  · rintro ⟨r, c, hr, hc, hb, h⟩
    refine ⟨r, by simpa using hr, c, hc, ?_, h⟩
    rw [State.readBytes_getElem]
    exact hb

/-- The toggled pixels depend on V[x], V[y], I, memory and the configuration alone (R114 (2)). -/
theorem State.drawPixels_congr {s t : State} {x y n : Nibble} (hx : t.getV x = s.getV x) (hy : t.getV y = s.getV y)
    (hi : t.i = s.i) (hm : ∀ a, t.memRead a = s.memRead a) (hc : t.cfg = s.cfg) :
    t.drawPixels x y n = s.drawPixels x y n := by
  simp only [State.drawPixels, State.readBytes, hx, hy, hi, hm, hc]

end Sys2Proof.Machine
end

