-- ==== Sys2Proof/Laws/Step.lean ====
section
/-! SUPPORT. What an instruction, a Step and an operation can do, said once. -/

namespace Sys2Proof.Machine

/-- What an instruction that does not fault keeps: the fault registers, the configuration, the
environment's schedule and argument, the canonical form of memory; and WAIT rises only with KEVT clear. -/
def Kept (s t : State) : Prop :=
  t.run = s.run ∧ t.fcode = s.fcode ∧ t.fpc = s.fpc ∧ t.fop = s.fop ∧ t.cfg = s.cfg ∧
  t.env.schedule = s.env.schedule ∧ t.env.rndArg = s.env.rndArg ∧
  (Memory.wf s.cfg s.mem → Memory.wf t.cfg t.mem) ∧
  ((t.wait = s.wait ∧ t.kevt = s.kevt) ∨ (t.wait = true ∧ t.kevt = false))

/-- An update that moves neither memory nor the fields `Kept` names. -/
theorem kept_of {s t : State} (h1 : t.run = s.run) (h2 : t.fcode = s.fcode) (h3 : t.fpc = s.fpc) (h4 : t.fop = s.fop)
    (h5 : t.cfg = s.cfg) (h6 : t.env.schedule = s.env.schedule) (h7 : t.env.rndArg = s.env.rndArg)
    (h8 : t.mem = s.mem) (h9 : t.wait = s.wait) (h10 : t.kevt = s.kevt) : Kept s t :=
  ⟨h1, h2, h3, h4, h5, h6, h7, by rw [h5, h8]; exact id, .inl ⟨h9, h10⟩⟩

/-- A block written keeps what `Kept` says. -/
theorem kept_writeBytes (s : State) (a : Nat) (bs : List Byte) : Kept s (s.writeBytes a bs) :=
  ⟨by simp, by simp, by simp, by simp, by simp, by simp, by simp, fun h => s.writeBytes_wf h a bs,
    .inl ⟨by simp, by simp⟩⟩

/-! The meanings with a fault, each of their two ways. -/

variable (s : State)

theorem execRet_pop (h : 0 < s.sp.val) : execRet s = .next (s.pop.setPc (s.top h)) := dif_pos h

theorem execRet_empty (h : s.sp = 0) : execRet s = .next (s.raise .stackUnderflow .ret) :=
  dif_neg (s.sp_empty_iff.2 h)

theorem execCall_push (nnn : Addr12) (h : s.sp.val < 16) :
    execCall nnn s = .next ((s.push s.pc h).setPc (zext16 nnn)) := dif_pos h

theorem execCall_full (nnn : Addr12) (h : s.sp = 16) :
    execCall nnn s = .next (s.raise .stackOverflow (.call nnn)) := dif_neg (s.sp_full_iff.2 h)

theorem execDrw_ok (x y n : Nibble) (h : s.blockFaults s.i.toNat n.toNat = false) :
    execDrw x y n s = .next ((s.setFb ((s.drawPixels x y n).foldl xorPixel (s.fb, false)).1).setV vf
      (flagByte ((s.drawPixels x y n).foldl xorPixel (s.fb, false)).2)) := by simp [execDrw, h]

theorem execDrw_fault (x y n : Nibble) (h : s.blockFaults s.i.toNat n.toNat = true) :
    execDrw x y n s = .next (s.raise .addressFault (.drw x y n)) := by simp [execDrw, h]

theorem execLdB_ok (x : Nibble) (h : s.blockFaults s.i.toNat 3 = false) :
    execLdB x s = .next (s.writeBytes s.i.toNat (bcdDigits (s.getV x))) := by simp [execLdB, h]

theorem execLdB_fault (x : Nibble) (h : s.blockFaults s.i.toNat 3 = true) :
    execLdB x s = .next (s.raise .addressFault (.ldB x)) := by simp [execLdB, h]

theorem execStRegs_ok (x : Nibble) (h : s.blockFaults s.i.toNat (x.toNat + 1) = false) :
    execStRegs x s = .next (s.writeBytes s.i.toNat (s.regBlock x)) := by simp [execStRegs, h]

theorem execStRegs_fault (x : Nibble) (h : s.blockFaults s.i.toNat (x.toNat + 1) = true) :
    execStRegs x s = .next (s.raise .addressFault (.stRegs x)) := by simp [execStRegs, h]

theorem execLdRegs_ok (x : Nibble) (h : s.blockFaults s.i.toNat (x.toNat + 1) = false) :
    execLdRegs x s = .next (s.loadBlock x s.i.toNat) := by simp [execLdRegs, h]

theorem execLdRegs_fault (x : Nibble) (h : s.blockFaults s.i.toNat (x.toNat + 1) = true) :
    execLdRegs x s = .next (s.raise .addressFault (.ldRegs x)) := by simp [execLdRegs, h]

theorem execAddI_quirk (x : Nibble) (h : s.cfg.quirkAddIVf = true) :
    execAddI x s = .next ((s.setI (s.i + s.getV16 x)).setV vf (indexFlag s.i (s.getV x))) := by simp [execAddI, h]

theorem execAddI_plain (x : Nibble) (h : s.cfg.quirkAddIVf = false) :
    execAddI x s = .next (s.setI (s.i + s.getV16 x)) := by simp [execAddI, h]

/-- An instruction either takes its execute-stage fault or runs and keeps what `Kept` says. -/
theorem exec_cases (i : Instr) (s : State) :
    (executeCause i s ≠ .none ∧ exec i s = .next (s.raise (executeCause i s) i)) ∨
    (executeCause i s = .none ∧ ∃ t, exec i s = .next t ∧ Kept s t) := by
  cases i with
  | ret =>
    by_cases h : s.sp = 0
    · left; simp only [executeCause, if_pos h]; exact ⟨by decide, execRet_empty s h⟩
    · right
      have h0 : 0 < s.sp.val := by by_contra hn; exact h (s.sp_empty_iff.1 hn)
      exact ⟨by simp [executeCause, h], _, execRet_pop s h0, by apply kept_of <;> simp⟩
  | call nnn =>
    by_cases h : s.sp = 16
    · left; simp only [executeCause, if_pos h]; exact ⟨by decide, execCall_full s nnn h⟩
    · right
      have h0 : s.sp.val < 16 := by by_contra hn; exact h (s.sp_full_iff.1 hn)
      exact ⟨by simp [executeCause, h], _, execCall_push s nnn h0, by apply kept_of <;> simp⟩
  | drw x y n =>
    cases h : s.blockFaults s.i.toNat n.toNat
    · right; exact ⟨by simp [executeCause, h], _, execDrw_ok s x y n h, by apply kept_of <;> simp⟩
    · left; simp only [executeCause, h, if_true]; exact ⟨by decide, execDrw_fault s x y n h⟩
  | ldB x =>
    cases h : s.blockFaults s.i.toNat 3
    · right; exact ⟨by simp [executeCause, h], _, execLdB_ok s x h, kept_writeBytes s _ _⟩
    · left; simp only [executeCause, h, if_true]; exact ⟨by decide, execLdB_fault s x h⟩
  | stRegs x =>
    cases h : s.blockFaults s.i.toNat (x.toNat + 1)
    · right; exact ⟨by simp [executeCause, h], _, execStRegs_ok s x h, kept_writeBytes s _ _⟩
    · left; simp only [executeCause, h, if_true]; exact ⟨by decide, execStRegs_fault s x h⟩
  | ldRegs x =>
    cases h : s.blockFaults s.i.toNat (x.toNat + 1)
    · right; exact ⟨by simp [executeCause, h], _, execLdRegs_ok s x h, by apply kept_of <;> simp⟩
    · left; simp only [executeCause, h, if_true]; exact ⟨by decide, execLdRegs_fault s x h⟩
  | addI x =>
    right
    cases h : s.cfg.quirkAddIVf
    · exact ⟨rfl, _, execAddI_plain s x h, by apply kept_of <;> simp⟩
    · exact ⟨rfl, _, execAddI_quirk s x h, by apply kept_of <;> simp⟩
  | ldVxK x => right; exact ⟨rfl, _, rfl, rfl, rfl, rfl, rfl, rfl, rfl, rfl, id, .inr ⟨rfl, rfl⟩⟩
  | cls => right; exact ⟨rfl, _, rfl, by apply kept_of <;> simp⟩
  | jp nnn => right; exact ⟨rfl, _, rfl, by apply kept_of <;> simp⟩
  | seImm x kk => right; exact ⟨rfl, _, rfl, by apply kept_of <;> simp⟩
  | sneImm x kk => right; exact ⟨rfl, _, rfl, by apply kept_of <;> simp⟩
  | seReg x y => right; exact ⟨rfl, _, rfl, by apply kept_of <;> simp⟩
  | ldImm x kk => right; exact ⟨rfl, _, rfl, by apply kept_of <;> simp⟩
  | addImm x kk => right; exact ⟨rfl, _, rfl, by apply kept_of <;> simp⟩
  | ldReg x y => right; exact ⟨rfl, _, rfl, by apply kept_of <;> simp⟩
  | orReg x y => right; exact ⟨rfl, _, rfl, by apply kept_of <;> simp⟩
  | andReg x y => right; exact ⟨rfl, _, rfl, by apply kept_of <;> simp⟩
  | xorReg x y => right; exact ⟨rfl, _, rfl, by apply kept_of <;> simp⟩
  | addReg x y => right; exact ⟨rfl, _, rfl, by apply kept_of <;> simp [State.setVFlag_eq]⟩
  | subReg x y => right; exact ⟨rfl, _, rfl, by apply kept_of <;> simp [State.setVFlag_eq]⟩
  | shr x y => right; exact ⟨rfl, _, rfl, by apply kept_of <;> simp [State.setVFlag_eq]⟩
  | subnReg x y => right; exact ⟨rfl, _, rfl, by apply kept_of <;> simp [State.setVFlag_eq]⟩
  | shl x y => right; exact ⟨rfl, _, rfl, by apply kept_of <;> simp [State.setVFlag_eq]⟩
  | sneReg x y => right; exact ⟨rfl, _, rfl, by apply kept_of <;> simp⟩
  | ldI nnn => right; exact ⟨rfl, _, rfl, by apply kept_of <;> simp⟩
  | jpV0 nnn => right; exact ⟨rfl, _, rfl, by apply kept_of <;> simp⟩
  | rnd x kk => right; exact ⟨rfl, _, rfl, by apply kept_of <;> simp⟩
  | skp x => right; exact ⟨rfl, _, rfl, by apply kept_of <;> simp⟩
  | sknp x => right; exact ⟨rfl, _, rfl, by apply kept_of <;> simp⟩
  | ldVxDt x => right; exact ⟨rfl, _, rfl, by apply kept_of <;> simp⟩
  | ldDtVx x => right; exact ⟨rfl, _, rfl, by apply kept_of <;> simp⟩
  | ldStVx x => right; exact ⟨rfl, _, rfl, by apply kept_of <;> simp⟩
  | ldF x => right; exact ⟨rfl, _, rfl, by apply kept_of <;> simp⟩

/-- A cycle (R58): the fault of the fetch, the fault of the decode, or the instruction with PC advanced. -/
theorem cycle_cases (s : State) :
    (s.fetch = none ∧ cycle s = .next (s.takeFault .addressFault s.pc 0)) ∨
    (∃ op e, s.fetch = some op ∧ decode op = .error e ∧
      cycle s = .next (s.advance.takeFault .unknownOpcode s.pc op)) ∨
    (∃ op i, s.fetch = some op ∧ decode op = .ok i ∧ cycle s = exec i s.advance) := by
  unfold cycle dispatchWord
  cases hf : s.fetch with
  | none => left; simp
  | some op =>
    right
    cases hd : decode op with
    | error e => left; exact ⟨op, e, rfl, hd, by simp [hd]⟩
    | ok i => right; exact ⟨op, i, rfl, hd, by simp [hd]⟩

/-- The advance does not move what an execute-stage fault depends on. -/
theorem executeCause_advance (i : Instr) (s : State) : executeCause i s.advance = executeCause i s := rfl

/-- A Step by run state (R56, R57, R58). -/
theorem coreStep_running {s : State} (h : s.run = .running) :
    coreStep s = if s.wait then .next (resumeWait s) else cycle s := by simp [coreStep, h]

theorem coreStep_halted {s : State} (h : s.run = .halted) : coreStep s = .next s := by simp [coreStep, h]

theorem coreStep_unloaded {s : State} (h : s.run = .unloaded) : coreStep s = .next s := by simp [coreStep, h]

/-- With nothing scheduled the next operation is a Step; else it is the oldest of the schedule. -/
theorem step_nil {s : State} (h : s.env.schedule = []) : step s = coreStep s := by simp [step, runNext, h]

theorem step_cons {s : State} {o : Op} {rest : List Op} (h : s.env.schedule = o :: rest) :
    step s = perform o (s.setSchedule rest) := by simp [step, runNext, h]

/-- What a cycle can do at a state, whatever it is: it keeps (with PC moving), or it halts CORE with the
fault of R148 and PC as R146 says. -/
theorem cycle_effect (s : State) :
    (cycleCause s ≠ .none ∧ ∃ t op, cycle s = .next (t.takeFault (cycleCause s) s.pc op) ∧
      ((s.fetch = none ∧ t = s ∧ op = 0) ∨ (s.fetch = some op ∧ t = s.advance) ∨
        (∃ i w, s.fetch = some w ∧ decode w = .ok i ∧ op = encode i ∧ t = s.advance))) ∨
    (cycleCause s = .none ∧ ∃ t, cycle s = .next t ∧ Kept s.advance t) := by
  rcases cycle_cases s with ⟨hf, hc⟩ | ⟨op, e, hf, hd, hc⟩ | ⟨op, i, hf, hd, hc⟩
  · left
    refine ⟨by simp [cycleCause, hf], s, 0, ?_, .inl ⟨hf, rfl, rfl⟩⟩
    simp [cycleCause, hf, hc]
  · left
    refine ⟨by simp [cycleCause, hf, hd], s.advance, op, ?_, .inr (.inl ⟨hf, rfl⟩)⟩
    simp [cycleCause, hf, hd, hc]
  · have e : cycleCause s = executeCause i s.advance := by simp [cycleCause, hf, hd, executeCause_advance]
    rcases exec_cases i s.advance with ⟨h1, h2⟩ | ⟨h1, t, h2, h3⟩
    · left
      refine ⟨by rw [e]; exact h1, s.advance, encode i, ?_, .inr (.inr ⟨i, op, hf, hd, rfl, rfl⟩)⟩
      rw [hc, h2, e, State.raise_eq]
      simp
    · right; exact ⟨by rw [e]; exact h1, t, by rw [hc, h2], h3⟩

end Sys2Proof.Machine
end

