-- ==== Sys2Proof/Laws/Interface.lean ====
section
/-! SUPPORT. The timers, the ROM bound, and what an instruction and a Step do to the key wait. -/

namespace Sys2Proof.Machine

/-- A timer's decrement (R135). -/
theorem countDown_toNat (b : Byte) : (countDown b).toNat = b.toNat - 1 := by
  unfold countDown
  split
  · next h => subst h; rfl
  · next h =>
    have h0 : b.toNat ≠ 0 := fun e => h (BitVec.eq_of_toNat_eq e)
    have h1 : (1 : Byte).toNat = 1 := rfl
    have := b.isLt
    rw [BitVec.toNat_sub]
    omega

/-- Tick after the first Reset (R135). -/
theorem tick_loaded {s : State} (h : s.run ≠ .unloaded) :
    tick s = (s.setDt (countDown s.dt)).setSt (countDown s.st) := by simp [tick, h]

/-- The ROM bound (R160, R161). -/
theorem romFits_iff (rom : List Byte) : romFits rom = true ↔ rom.length ≤ 3584 := by
  unfold romFits romMax; exact decide_eq_true_iff

/-- What an instruction does to the wait registers: nothing, or Fx0A enters the suspension (R124). -/
theorem exec_wait (i : Instr) (s t : State) (he : exec i s = .next t) :
    (t.wait = s.wait ∧ t.kevt = s.kevt ∧ t.kcode = s.kcode) ∨ ∃ x, i = .ldVxK x ∧ t = s.enterWait x := by
  rcases exec_cases i s with ⟨_, h⟩ | ⟨hc, _⟩
  · rw [h] at he; cases he; simp [State.raise_eq]
  cases i with
  | ret =>
    have h0 : 0 < s.sp.val := by by_contra hn; simp [executeCause, s.sp_empty_iff.1 hn] at hc
    rw [show exec .ret s = _ from execRet_pop s h0] at he; cases he; simp
  | call nnn =>
    have h0 : s.sp.val < 16 := by by_contra hn; simp [executeCause, s.sp_full_iff.1 hn] at hc
    rw [show exec (.call nnn) s = _ from execCall_push s nnn h0] at he; cases he; simp
  | drw x y n =>
    have hb : s.blockFaults s.i.toNat n.toNat = false := by
      rw [← Bool.not_eq_true]; intro h; simp [executeCause, h] at hc
    rw [show exec (.drw x y n) s = _ from execDrw_ok s x y n hb] at he; cases he; simp
  | ldB x =>
    have hb : s.blockFaults s.i.toNat 3 = false := by
      rw [← Bool.not_eq_true]; intro h; simp [executeCause, h] at hc
    rw [show exec (.ldB x) s = _ from execLdB_ok s x hb] at he; cases he; simp
  | stRegs x =>
    have hb : s.blockFaults s.i.toNat (x.toNat + 1) = false := by
      rw [← Bool.not_eq_true]; intro h; simp [executeCause, h] at hc
    rw [show exec (.stRegs x) s = _ from execStRegs_ok s x hb] at he; cases he; simp
  | ldRegs x =>
    have hb : s.blockFaults s.i.toNat (x.toNat + 1) = false := by
      rw [← Bool.not_eq_true]; intro h; simp [executeCause, h] at hc
    rw [show exec (.ldRegs x) s = _ from execLdRegs_ok s x hb] at he; cases he; simp
  | addI x =>
    cases h : s.cfg.quirkAddIVf
    · rw [show exec (.addI x) s = _ from execAddI_plain s x h] at he; cases he; simp
    · rw [show exec (.addI x) s = _ from execAddI_quirk s x h] at he; cases he; simp
  | ldVxK x => cases he; exact .inr ⟨x, rfl, rfl⟩
  | _ => cases he; simp [State.setVFlag_eq]

/-- What a Step does to the wait registers: nothing, a resumption (R125), or Fx0A (R124). -/
theorem coreStep_wait (s t : State) (he : coreStep s = .next t) :
    (t.wait = s.wait ∧ t.kevt = s.kevt) ∨ (s.kevt = true ∧ s.wait = true ∧ t.wait = false ∧ t.kevt = false) ∨
    (s.wait = false ∧ ∃ op x, s.fetch = some op ∧ decode op = .ok (.ldVxK x) ∧ t = s.advance.enterWait x) := by
  cases hr : s.run
  · rw [coreStep_unloaded hr] at he; cases he; simp
  · rw [coreStep_running hr] at he
    cases hw : s.wait
    · rw [hw] at he; simp only [Bool.false_eq_true, if_false] at he
      rcases cycle_cases s with ⟨_, h⟩ | ⟨_, _, _, _, h⟩ | ⟨op, i, hf, hd, h⟩
      · rw [h] at he; cases he; simp [hw]
      · rw [h] at he; cases he; simp [hw]
      · rw [h] at he
        rcases exec_wait i _ t he with h | ⟨x, rfl, rfl⟩
        · simp_all
        · exact .inr (.inr ⟨rfl, op, x, hf, hd, rfl⟩)
    · rw [hw] at he; simp only [if_true] at he; cases he
      unfold resumeWait; split
      · next h => simp [h]
      · simp [hw]
  · rw [coreStep_halted hr] at he; cases he; simp

end Sys2Proof.Machine
end

