-- ==== Sys2Proof/Laws/PerInstr.lean ====
section
/-! SUPPORT. Statements per instruction. `RowMatch`: the word an instruction encodes to is covered by
the instruction's own row of 30_encoding.md R52. -/

namespace Sys2Proof

/-- A word of format NNN under a row that tests the family alone. -/
theorem covers_nnn (f : Nibble) (nnn : Addr12) :
    OpcodeRow.covers ⟨f ++ 0#12, 0xF000⟩ (f ++ nnn) = true := by
  rw [OpcodeRow.covers, beq_iff_eq]
  apply BitVec.eq_of_getLsbD_eq; intro i hi
  rw [BitVec.getLsbD_and, BitVec.getLsbD_append, BitVec.getLsbD_append]
  interval_cases i <;> simp

/-- A word of format XKK under a row that tests the family alone. -/
theorem covers_xkk (f x : Nibble) (kk : Byte) :
    OpcodeRow.covers ⟨f ++ 0#12, 0xF000⟩ (f ++ x ++ kk) = true := by
  rw [OpcodeRow.covers, beq_iff_eq]
  apply BitVec.eq_of_getLsbD_eq; intro i hi
  rw [BitVec.getLsbD_and, BitVec.getLsbD_append, BitVec.getLsbD_append, BitVec.getLsbD_append]
  interval_cases i <;> simp

/-- A word of format X under a row that tests the family and the low byte. -/
theorem covers_x (f x : Nibble) (kk : Byte) :
    OpcodeRow.covers ⟨f ++ 0#4 ++ kk, 0xF0FF⟩ (f ++ x ++ kk) = true := by
  rw [OpcodeRow.covers, beq_iff_eq]
  apply BitVec.eq_of_getLsbD_eq; intro i hi
  rw [BitVec.getLsbD_and, BitVec.getLsbD_append, BitVec.getLsbD_append, BitVec.getLsbD_append, BitVec.getLsbD_append]
  interval_cases i <;> simp

/-- A word of format XY under a row that tests the family and the low nibble. -/
theorem covers_xy (f x y n : Nibble) :
    OpcodeRow.covers ⟨f ++ 0#8 ++ n, 0xF00F⟩ (f ++ x ++ y ++ n) = true := by
  rw [OpcodeRow.covers, beq_iff_eq]
  apply BitVec.eq_of_getLsbD_eq; intro i hi
  rw [BitVec.getLsbD_and, BitVec.getLsbD_append, BitVec.getLsbD_append, BitVec.getLsbD_append,
    BitVec.getLsbD_append, BitVec.getLsbD_append]
  interval_cases i <;> simp

/-- A word of format XYN under a row that tests the family alone. -/
theorem covers_xyn (f x y n : Nibble) :
    OpcodeRow.covers ⟨f ++ 0#12, 0xF000⟩ (f ++ x ++ y ++ n) = true := by
  rw [OpcodeRow.covers, beq_iff_eq]
  apply BitVec.eq_of_getLsbD_eq; intro i hi
  rw [BitVec.getLsbD_and, BitVec.getLsbD_append, BitVec.getLsbD_append, BitVec.getLsbD_append, BitVec.getLsbD_append]
  interval_cases i <;> simp

end Sys2Proof

namespace Sys2Proof.Laws.RowMatch

/-- The instruction's word is covered by its own row of R52. -/
def Statement (i : Instr) : Prop := i.row.covers (encode i) = true

theorem cls : Statement .cls := rfl
theorem ret : Statement .ret := rfl
theorem jp (nnn : Addr12) : Statement (.jp nnn) := covers_nnn 0x1#4 nnn
theorem call (nnn : Addr12) : Statement (.call nnn) := covers_nnn 0x2#4 nnn
theorem seImm (x : Nibble) (kk : Byte) : Statement (.seImm x kk) := covers_xkk 0x3#4 x kk
theorem sneImm (x : Nibble) (kk : Byte) : Statement (.sneImm x kk) := covers_xkk 0x4#4 x kk
theorem seReg (x y : Nibble) : Statement (.seReg x y) := covers_xy 0x5#4 x y 0x0#4
theorem ldImm (x : Nibble) (kk : Byte) : Statement (.ldImm x kk) := covers_xkk 0x6#4 x kk
theorem addImm (x : Nibble) (kk : Byte) : Statement (.addImm x kk) := covers_xkk 0x7#4 x kk
theorem ldReg (x y : Nibble) : Statement (.ldReg x y) := covers_xy 0x8#4 x y 0x0#4
theorem orReg (x y : Nibble) : Statement (.orReg x y) := covers_xy 0x8#4 x y 0x1#4
theorem andReg (x y : Nibble) : Statement (.andReg x y) := covers_xy 0x8#4 x y 0x2#4
theorem xorReg (x y : Nibble) : Statement (.xorReg x y) := covers_xy 0x8#4 x y 0x3#4
theorem addReg (x y : Nibble) : Statement (.addReg x y) := covers_xy 0x8#4 x y 0x4#4
theorem subReg (x y : Nibble) : Statement (.subReg x y) := covers_xy 0x8#4 x y 0x5#4
theorem shr (x y : Nibble) : Statement (.shr x y) := covers_xy 0x8#4 x y 0x6#4
theorem subnReg (x y : Nibble) : Statement (.subnReg x y) := covers_xy 0x8#4 x y 0x7#4
theorem shl (x y : Nibble) : Statement (.shl x y) := covers_xy 0x8#4 x y 0xE#4
theorem sneReg (x y : Nibble) : Statement (.sneReg x y) := covers_xy 0x9#4 x y 0x0#4
theorem ldI (nnn : Addr12) : Statement (.ldI nnn) := covers_nnn 0xA#4 nnn
theorem jpV0 (nnn : Addr12) : Statement (.jpV0 nnn) := covers_nnn 0xB#4 nnn
theorem rnd (x : Nibble) (kk : Byte) : Statement (.rnd x kk) := covers_xkk 0xC#4 x kk
theorem drw (x y n : Nibble) : Statement (.drw x y n) := covers_xyn 0xD#4 x y n
theorem skp (x : Nibble) : Statement (.skp x) := covers_x 0xE#4 x 0x9E#8
theorem sknp (x : Nibble) : Statement (.sknp x) := covers_x 0xE#4 x 0xA1#8
theorem ldVxDt (x : Nibble) : Statement (.ldVxDt x) := covers_x 0xF#4 x 0x07#8
theorem ldVxK (x : Nibble) : Statement (.ldVxK x) := covers_x 0xF#4 x 0x0A#8
theorem ldDtVx (x : Nibble) : Statement (.ldDtVx x) := covers_x 0xF#4 x 0x15#8
theorem ldStVx (x : Nibble) : Statement (.ldStVx x) := covers_x 0xF#4 x 0x18#8
theorem addI (x : Nibble) : Statement (.addI x) := covers_x 0xF#4 x 0x1E#8
theorem ldF (x : Nibble) : Statement (.ldF x) := covers_x 0xF#4 x 0x29#8
theorem ldB (x : Nibble) : Statement (.ldB x) := covers_x 0xF#4 x 0x33#8
theorem stRegs (x : Nibble) : Statement (.stRegs x) := covers_x 0xF#4 x 0x55#8
theorem ldRegs (x : Nibble) : Statement (.ldRegs x) := covers_x 0xF#4 x 0x65#8

end Sys2Proof.Laws.RowMatch
end

