-- ==== Sys2Proof/Tests/Slice0.lean ====
section
/-! SUPPORT. The model's own tests: ill-formed terms that the checks refuse, a word of every constructor
written out from R52, one Step per instruction with the results of 95_test_vectors.md (the vector's name
stands at each test), and a witness for every hypothesis of the statements in Certificates/Slice0. -/

set_option maxRecDepth 20000

open Sys2Proof Sys2Proof.Machine

namespace Sys2Proof.Tests

/-! Builders -/

/-- The next state of an outcome. -/
def after : Result → State
  | .next t => t
  | .fault _ => State.reset
  | .refused _ => State.reset

/-- The state after Reset with some V registers set. -/
def withV (l : List (Nibble × Byte)) : State := l.foldl (fun s p => s.setV p.1 p.2) State.reset

/-- One more pixel on. -/
def lit (s : State) (y : Fin 32) (x : Fin 64) : State :=
  s.setFb (s.fb.set y.val (s.fb[y] ||| BitVec.twoPow 64 x.val))

/-- A Step of the word `op`, placed at PC. -/
def run (op : Nat) (s : State) : State := after (step (s.withFetchWord 16 op))

/-- One operation. -/
def op1 (o : Op) (s : State) : State := after (perform o s)

/-- The same state under ADDR_POLICY = FAULT. -/
def strict (s : State) : State := { s with cfg := { s.cfg with addrPolicy := .fault } }

/-- The same state with the quirks on. -/
def quirky (s : State) : State := { s with cfg := { s.cfg with quirkAddIVf := true, quirkDrawWrap := true } }

/-- A given depth of the stack. -/
def depth (n : Fin 17) (s : State) : State := { s with sp := n }

/-- The PC set. -/
def atPc (w : Word) (s : State) : State := { s with pc := w }

/-- Waiting for a key, the target register 3, with or without a latched press of key 0xA. -/
def waiting (latched : Bool) : State := { State.reset with wait := true, waitReg := 3, kevt := latched, kcode := 0xA }

/-- Before the first Reset. -/
def unloadedState : State := { State.reset with run := .unloaded }

/-- Halted by an Unknown word 0x0000 at 0x200 (T-EXC-1). -/
def haltedState : State := after (step State.reset)

/-! Ill-formed terms are refused -/

/-- Each mask and sub-opcode check of R52 refuses a word one bit away from a row. -/
theorem test_wellformed_refuses_words :
    [0x0000, 0x00E1, 0x00FE, 0x0123, 0x5001, 0x8008, 0x800F, 0x9001, 0xE000, 0xE09F, 0xF000, 0xF00B, 0xF075,
      0xF0FF].all (fun op => !wellFormedWord op) = true := by decide

theorem test_table_rows_disjoint : opcodeRows.length = 34 ∧ opcodeRows.Pairwise (fun r q => r.disjoint q = true) := by
  decide

theorem test_overlapping_rows_refused : OpcodeRow.disjoint ⟨0x1000, 0xF000⟩ ⟨0x1200, 0xFF00⟩ = false := by decide

/-- S10: 3584 bytes pass, 3585 do not (R160, R161). -/
theorem test_rom_bound : romFits (List.replicate 3584 0) = true ∧ romFits (List.replicate 3585 0) = false := by
  simp only [romFits, romMax, List.length_replicate]; decide

/-- A descending pair, a repeated address, an address above 0xFFF, and a byte equal to the background
are no memory. -/
theorem test_memory_form_refuses :
    ¬ Memory.wf Config.default [(0x301, 1), (0x300, 1)] ∧ ¬ Memory.wf Config.default [(0x300, 1), (0x300, 2)] ∧
    ¬ Memory.wf Config.default [(4096, 1)] ∧ ¬ Memory.wf Config.default [(0x300, 0)] ∧
    ¬ Memory.wf Config.default [(0x50, 0xF0)] := by decide

/-! A word of every constructor, bit by bit from R52 -/

theorem test_decode_control :
    decode 0b0000000011101110#16 = .ok .ret ∧
    decode 0b0001001000110100#16 = .ok (.jp 0x234) ∧
    decode 0b0010101111001101#16 = .ok (.call 0xBCD) ∧
    decode 0b0011010100101010#16 = .ok (.seImm 5 0x2A) ∧
    decode 0b0100010100101010#16 = .ok (.sneImm 5 0x2A) ∧
    decode 0b0101000100100000#16 = .ok (.seReg 1 2) ∧
    decode 0b1001000100100000#16 = .ok (.sneReg 1 2) ∧
    decode 0b1011001100000001#16 = .ok (.jpV0 0x301) := by decide

theorem test_decode_register :
    decode 0b0110101001000010#16 = .ok (.ldImm 10 0x42) ∧
    decode 0b0111001000100001#16 = .ok (.addImm 2 0x21) ∧
    decode 0b1000110001010000#16 = .ok (.ldReg 12 5) ∧
    decode 0b1000110001010001#16 = .ok (.orReg 12 5) ∧
    decode 0b1000110001010010#16 = .ok (.andReg 12 5) ∧
    decode 0b1000110001010011#16 = .ok (.xorReg 12 5) ∧
    decode 0b1000110001010100#16 = .ok (.addReg 12 5) ∧
    decode 0b1000110001010101#16 = .ok (.subReg 12 5) ∧
    decode 0b1000110001010110#16 = .ok (.shr 12 5) ∧
    decode 0b1000110001010111#16 = .ok (.subnReg 12 5) ∧
    decode 0b1000110001011110#16 = .ok (.shl 12 5) := by decide

theorem test_decode_index :
    decode 0b1010001011110001#16 = .ok (.ldI 0x2F1) ∧
    decode 0b1111011000011110#16 = .ok (.addI 6) ∧
    decode 0b1111011000101001#16 = .ok (.ldF 6) ∧
    decode 0b1111011000110011#16 = .ok (.ldB 6) ∧
    decode 0b1111011001010101#16 = .ok (.stRegs 6) ∧
    decode 0b1111011001100101#16 = .ok (.ldRegs 6) := by decide

theorem test_decode_display :
    decode 0b0000000011100000#16 = .ok .cls ∧ decode 0b1101000100100101#16 = .ok (.drw 1 2 5) := by decide

theorem test_decode_input :
    decode 0b1110110010011110#16 = .ok (.skp 12) ∧ decode 0b1110110010100001#16 = .ok (.sknp 12) ∧
    decode 0b1111110000001010#16 = .ok (.ldVxK 12) := by decide

theorem test_decode_timer :
    decode 0b1111110000000111#16 = .ok (.ldVxDt 12) ∧ decode 0b1111110000010101#16 = .ok (.ldDtVx 12) ∧
    decode 0b1111110000011000#16 = .ok (.ldStVx 12) := by decide

theorem test_decode_random : decode 0b1100000110101111#16 = .ok (.rnd 1 0xAF) := by decide

/-- The first byte of an instruction is its high byte (R35, R45). -/
theorem test_decode_bytes :
    decodeBytes [0x6A, 0x42, 0x12] = .ok (.ldImm 10 0x42, [0x12]) ∧ decodeBytes [0x6A] = .error .truncated ∧
    decodeTableWord 16 0x6A42 = some (.ldImm 10 0x42) ∧ decodeTableWord 16 0xF075 = none := by decide

/-! One Step per instruction -/

/-- T-CF-1. -/
theorem test_jp : (run 0x1ABC State.reset).pc = 0x0ABC := by decide

/-- T-CF-3. -/
theorem test_call : (run 0x2300 State.reset).pc = 0x0300 ∧ (run 0x2300 State.reset).stack[0] = 0x0202 ∧
    (run 0x2300 State.reset).sp = 1 := by decide

/-- T-CF-4. -/
theorem test_call_overflow : (run 0x2300 (depth 16 State.reset)).outputs.fcode = 3 ∧
    (run 0x2300 (depth 16 State.reset)).fpc = 0x0200 ∧ (run 0x2300 (depth 16 State.reset)).fop = 0x2300 ∧
    (run 0x2300 (depth 16 State.reset)).sp = 16 ∧ (run 0x2300 (depth 16 State.reset)).pc = 0x0202 := by decide

/-- T-CF-7. -/
theorem test_ret : (run 0x00EE { State.reset with sp := 2, stack := State.reset.stack.set 1 0x0301 }).pc = 0x0301 ∧
    (run 0x00EE { State.reset with sp := 2, stack := State.reset.stack.set 1 0x0301 }).sp = 1 := by decide

/-- T-CF-6. -/
theorem test_ret_underflow : (run 0x00EE State.reset).outputs.fcode = 4 ∧ (run 0x00EE State.reset).fpc = 0x0200 ∧
    (run 0x00EE State.reset).fop = 0x00EE ∧ (run 0x00EE State.reset).pc = 0x0202 := by decide

/-- T-CF-9. -/
theorem test_jpV0 : (run 0xBFFF (withV [(0, 0xFF), (15, 0x55)])).pc = 0x10FE ∧
    (run 0xBFFF (withV [(0, 0xFF), (15, 0x55)])).getV 15 = 0x55 := by decide

/-- T-CF-10, T-CF-11. -/
theorem test_seImm : (run 0x332A (withV [(3, 0x2A)])).pc = 0x0204 ∧ (run 0x332A (withV [(3, 0x2B)])).pc = 0x0202 := by
  decide

/-- T-CF-20: the fetch and the skip wrap. -/
theorem test_seImm_wraps : (run 0x3000 (atPc 0xFFFE State.reset)).pc = 0x0002 := by decide

/-- T-CF-12, T-CF-13. -/
theorem test_sneImm : (run 0x432A (withV [(3, 0x2A)])).pc = 0x0202 ∧ (run 0x432A (withV [(3, 0)])).pc = 0x0204 := by
  decide

/-- T-CF-14, T-CF-15. -/
theorem test_seReg : (run 0x5120 (withV [(1, 7), (2, 7)])).pc = 0x0204 ∧
    (run 0x5120 (withV [(1, 7), (2, 8)])).pc = 0x0202 := by decide

/-- T-CF-17, T-CF-18. -/
theorem test_sneReg : (run 0x9120 (withV [(1, 7), (2, 8)])).pc = 0x0204 ∧ (run 0x9440 State.reset).pc = 0x0202 := by
  decide

/-- T-REG-1. -/
theorem test_ldImm : (run 0x6A42 State.reset).getV 10 = 0x42 := by decide

/-- T-REG-3, T-REG-4. -/
theorem test_addImm : (run 0x7001 (withV [(0, 0xFF)])).getV 0 = 0 ∧ (run 0x7001 (withV [(0, 0xFF)])).getV 15 = 0 ∧
    (run 0x7F02 (withV [(15, 0xFF)])).getV 15 = 1 := by decide

/-- T-REG-5. -/
theorem test_ldReg : (run 0x8010 (withV [(1, 9)])).getV 0 = 9 := by decide

/-- T-REG-6. -/
theorem test_orReg : (run 0x8121 (withV [(1, 0xF0), (2, 0x0F), (15, 1)])).getV 1 = 0xFF ∧
    (run 0x8121 (withV [(1, 0xF0), (2, 0x0F), (15, 1)])).getV 15 = 1 := by decide

/-- T-REG-7. -/
theorem test_andReg : (run 0x8122 (withV [(1, 0xF3), (2, 0x3F), (15, 1)])).getV 1 = 0x33 ∧
    (run 0x8122 (withV [(1, 0xF3), (2, 0x3F), (15, 1)])).getV 15 = 1 := by decide

/-- T-REG-8. -/
theorem test_xorReg : (run 0x8123 (withV [(1, 0xFF), (2, 0x0F), (15, 1)])).getV 1 = 0xF0 ∧
    (run 0x8123 (withV [(1, 0xFF), (2, 0x0F), (15, 1)])).getV 15 = 1 := by decide

/-- T-REG-9, T-REG-10. -/
theorem test_addReg : (run 0x8014 (withV [(0, 0xFF), (1, 1)])).getV 0 = 0 ∧
    (run 0x8014 (withV [(0, 0xFF), (1, 1)])).getV 15 = 1 ∧
    (run 0x8014 (withV [(0, 0x10), (1, 0x20), (15, 1)])).getV 15 = 0 := by decide

/-- T-REG-12 (a), (c): VF as destination and as source. -/
theorem test_addReg_vf : (run 0x8F14 (withV [(15, 0xFF), (1, 2)])).getV 15 = 1 ∧
    (run 0x80F4 (withV [(0, 0xFF), (15, 1)])).getV 0 = 0 ∧ (run 0x80F4 (withV [(0, 0xFF), (15, 1)])).getV 15 = 1 := by
  decide

/-- T-REG-13, T-REG-14. -/
theorem test_subReg : (run 0x8015 (withV [(0, 1), (1, 2)])).getV 0 = 0xFF ∧
    (run 0x8015 (withV [(0, 1), (1, 2)])).getV 15 = 0 ∧ (run 0x8015 (withV [(0, 5), (1, 5)])).getV 15 = 1 := by decide

/-- T-REG-15. -/
theorem test_subReg_vf : (run 0x8F15 (withV [(15, 5), (1, 3)])).getV 15 = 1 ∧
    (run 0x80F5 (withV [(0, 3), (15, 5)])).getV 0 = 0xFE := by decide

/-- T-REG-16, T-REG-18. -/
theorem test_shr : (run 0x8456 (withV [(4, 5), (5, 0xFF)])).getV 4 = 2 ∧
    (run 0x8456 (withV [(4, 5), (5, 0xFF)])).getV 5 = 0xFF ∧ (run 0x8456 (withV [(4, 5), (5, 0xFF)])).getV 15 = 1 ∧
    (run 0x8F06 (withV [(15, 2)])).getV 15 = 0 := by decide

/-- T-REG-19. -/
theorem test_subnReg : (run 0x8017 (withV [(0, 2), (1, 1)])).getV 0 = 0xFF ∧
    (run 0x8017 (withV [(0, 2), (1, 1)])).getV 15 = 0 ∧ (run 0x8017 (withV [(0, 3), (1, 5)])).getV 0 = 2 ∧
    (run 0x8017 (withV [(0, 3), (1, 5)])).getV 15 = 1 := by decide

/-- T-REG-20, T-REG-21. -/
theorem test_shl : (run 0x840E (withV [(4, 0x81)])).getV 4 = 2 ∧ (run 0x840E (withV [(4, 0x81)])).getV 15 = 1 ∧
    (run 0x840E (withV [(4, 0x41), (15, 1)])).getV 4 = 0x82 ∧ (run 0x8F0E (withV [(15, 0x80)])).getV 15 = 1 := by decide

/-- T-MEM-1. -/
theorem test_ldI : (run 0xA2F0 State.reset).i = 0x02F0 := by decide

/-- T-MEM-2. -/
theorem test_addI : (run 0xF11E ((withV [(1, 5)]).setI 0x0FFE)).i = 0x1003 ∧
    (run 0xF11E ((withV [(1, 5)]).setI 0x0FFE)).getV 15 = 0 ∧
    (run 0xF11E (quirky ((withV [(1, 5)]).setI 0x0FFE))).getV 15 = 1 := by decide

/-- T-MEM-3, T-MEM-4: the quirk clears VF; I wraps at 65536. -/
theorem test_addI_quirk : (run 0xF11E (quirky ((withV [(1, 0x10), (15, 1)]).setI 0x0100))).getV 15 = 0 ∧
    (run 0xF11E (quirky ((withV [(1, 1)]).setI 0xFFFF))).i = 0 ∧
    (run 0xF11E (quirky ((withV [(1, 1)]).setI 0xFFFF))).getV 15 = 1 := by decide

/-- T-MEM-5. -/
theorem test_ldF : (run 0xF229 (withV [(2, 0x1A)])).i = 0x0082 ∧ (run 0xF229 (withV [(2, 0x0F)])).i = 0x009B := by decide

/-- T-MEM-8 under MASK: the digits wrap from 0xFFF to 0x000. -/
theorem test_ldB : (run 0xF333 ((withV [(3, 0x9C)]).setI 0x0FFE)).readBytes 0xFFE 2 = [1, 5] ∧
    (run 0xF333 ((withV [(3, 0x9C)]).setI 0x0FFE)).memRead 0 = 6 := by decide

/-- T-MEM-8 under FAULT: no byte is written. -/
theorem test_ldB_fault : (run 0xF333 (strict ((withV [(3, 0x9C)]).setI 0x0FFE))).outputs.fcode = 5 ∧
    (run 0xF333 (strict ((withV [(3, 0x9C)]).setI 0x0FFE))).readBytes 0xFFE 2 = [0, 0] ∧
    (run 0xF333 (strict ((withV [(3, 0x9C)]).setI 0x0FFE))).pc = 0x0202 := by decide

/-- T-MEM-9. -/
theorem test_stRegs : (run 0xF155 ((withV [(0, 0x11), (1, 0x22), (2, 0x33)]).setI 0x0400)).readBytes 0x400 3 =
    [0x11, 0x22, 0] ∧ (run 0xF155 ((withV [(0, 0x11), (1, 0x22), (2, 0x33)]).setI 0x0400)).i = 0x0400 := by decide

/-- T-MEM-12. -/
theorem test_ldRegs : (run 0xFF65 (State.reset.setI 0x0050)).v =
    #v[0xF0, 0x90, 0x90, 0x90, 0xF0, 0x20, 0x60, 0x20, 0x20, 0x70, 0xF0, 0x10, 0xF0, 0x80, 0xF0, 0xF0] := by decide

/-- T-MEM-11. -/
theorem test_ldRegs_one : (run 0xF065 (((withV [(1, 0x77)]).setI 0x0400).memWrite 0x400 0xAA)).getV 0 = 0xAA ∧
    (run 0xF065 (((withV [(1, 0x77)]).setI 0x0400).memWrite 0x400 0xAA)).getV 1 = 0x77 := by decide

/-- T-DSP-1. -/
theorem test_cls : (run 0x00E0 (lit (lit (withV [(15, 1)]) 3 7) 31 63)).fb = Vector.replicate 32 0 ∧
    (run 0x00E0 (lit (lit (withV [(15, 1)]) 3 7) 31 63)).getV 15 = 1 := by decide

/-- T-DSP-9: columns 1 to 3 stay on, column 0 collides. -/
theorem test_drw : (run 0xD011 (lit (State.reset.setI 0x50) 0 0)).fb[0] = 0b1110 ∧
    (run 0xD011 (lit (State.reset.setI 0x50) 0 0)).getV 15 = 1 := by decide

/-- T-DSP-5: the sprite 1111 0000 at column 62, clipped and wrapped. -/
theorem test_drw_edge : (run 0xD011 ((withV [(0, 62)]).setI 0x50)).fb[0] = 0xC000000000000000 ∧
    (run 0xD011 (quirky ((withV [(0, 62)]).setI 0x50))).fb[0] = 0xC000000000000003 := by decide

/-- T-KEY-3. -/
theorem test_skp : (run 0xE09E (op1 (.keyPress 5) (withV [(0, 0x15)]))).pc = 0x0204 ∧
    (run 0xE09E (withV [(0, 5)])).pc = 0x0202 := by decide

/-- T-KEY-4. -/
theorem test_sknp : (run 0xE0A1 (op1 (.keyPress 5) (withV [(0, 5)]))).pc = 0x0202 ∧
    (run 0xE0A1 (op1 (.keyRelease 5) (op1 (.keyPress 5) (withV [(0, 5)])))).pc = 0x0204 := by decide

/-- T-KEY-5, first Step. -/
theorem test_ldVxK : (run 0xF30A State.reset).pc = 0x0200 ∧ (run 0xF30A State.reset).wait = true ∧
    (run 0xF30A State.reset).waitReg = 3 ∧ (run 0xF30A State.reset).kevt = false := by decide

/-- T-KEY-5, the press and the last Step. -/
theorem test_resume : (after (step (op1 (.keyPress 0xA) (waiting false)))).getV 3 = 0x0A ∧
    (after (step (op1 (.keyPress 0xA) (waiting false)))).pc = 0x0202 ∧
    (after (step (op1 (.keyPress 0xA) (waiting false)))).wait = false := by decide

/-- T-TMR-2. -/
theorem test_ldVxDt : (run 0xF207 (State.reset.setDt 0x3C)).getV 2 = 0x3C := by decide

/-- T-TMR-8. -/
theorem test_ldDtVx : (run 0xF215 (State.reset.setDt 77)).dt = 0 := by decide

/-- T-TMR-3. -/
theorem test_ldStVx : (run 0xF218 (withV [(2, 2)])).st = 2 ∧ (run 0xF218 (withV [(2, 2)])).snd = true := by decide

/-- T-TMR-4. -/
theorem test_tick : (op1 .tick ((State.reset.setDt 1).setSt 200)).dt = 0 ∧
    (op1 .tick ((State.reset.setDt 1).setSt 200)).st = 199 := by decide

/-- T-RND-1: the word C10F with rnd = 0xB7. -/
theorem test_rnd : (op1 (.step 0xB7) (State.reset.withFetchWord 16 0xC10F)).getV 1 = 0x07 := by decide

/-- T-EXC-1. -/
theorem test_unknown : haltedState.outputs.run = 2 ∧ haltedState.outputs.fcode = 2 ∧ haltedState.fpc = 0x0200 ∧
    haltedState.fop = 0 ∧ haltedState.pc = 0x0202 := by decide

/-- T-EXC-8, second Step: the fetch at 0xFFF under FAULT. -/
theorem test_fetch_fault : (after (step (strict (atPc 0x0FFF State.reset)))).outputs.fcode = 5 ∧
    (after (step (strict (atPc 0x0FFF State.reset)))).pc = 0x0FFF ∧
    (after (step (strict (atPc 0x0FFF State.reset)))).fop = 0 := by decide

/-- T-RST-1. -/
theorem test_reset : (op1 (.reset [0xAA, 0xBB, 0xCC]) haltedState).readBytes 0x1FF 5 = [0, 0xAA, 0xBB, 0xCC, 0] ∧
    (op1 (.reset [0xAA, 0xBB, 0xCC]) haltedState).readBytes 0x9B 6 = [0xF0, 0x80, 0xF0, 0x80, 0x80, 0] ∧
    (op1 (.reset [0xAA, 0xBB, 0xCC]) haltedState).pc = 0x0200 ∧
    (op1 (.reset [0xAA, 0xBB, 0xCC]) haltedState).outputs.run = 1 := by decide

/-! Witnesses: for every statement with hypotheses, states and operands that meet them -/

theorem test_witness_DecodedWordEncodesBack : decode 0x8F5E = .ok (.shl 15 5) := by decide

theorem test_witness_DecodeAcceptsExactlyTheTable : wellFormedWord 0xFF65 = true ∧ wellFormedWord 0xFF66 = false := by
  decide

theorem test_witness_FetchReadsTwoBytesBigEndian :
    (atPc 0xFFFF State.reset).cfg.addrPolicy = .mask ∧ (strict (atPc 0xFFE State.reset)).pc.toNat ≤ 0xFFE ∧
    (strict (atPc 0xFFF State.reset)).cfg.addrPolicy = .fault ∧ (strict (atPc 0xFFF State.reset)).pc.toNat ≥ 0xFFF := by
  decide

theorem test_witness_StepRunsTheDecodedInstruction :
    (State.reset.withFetchWord 16 0x6A42).Fetches 0x6A42 ∧ decode 0x6A42 = .ok (.ldImm 10 0x42) := by
  unfold State.Fetches; decide

theorem test_witness_StepRunsTheDecodedInstruction_scheduled :
    ((State.reset.withFetchWord 16 0xC10F).setSchedule [.step 0xB7]).run = .running ∧
    ((State.reset.withFetchWord 16 0xC10F).setSchedule [.step 0xB7]).wait = false ∧
    ((State.reset.withFetchWord 16 0xC10F).setSchedule [.step 0xB7]).env.schedule = .step 0xB7 :: [] ∧
    ((State.reset.withFetchWord 16 0xC10F).setSchedule [.step 0xB7]).fetch = some 0xC10F ∧
    decode 0xC10F = .ok (.rnd 1 0x0F) := by decide

theorem test_witness_UnknownWordHaltsWithItsAddress :
    (State.reset.withFetchWord 16 0x800F).Fetches 0x800F ∧ wellFormedWord 0x800F = false := by
  unfold State.Fetches; decide

theorem test_witness_FaultingFetchLeavesPc :
    (strict (atPc 0xFFF State.reset)).run = .running ∧ (strict (atPc 0xFFF State.reset)).wait = false ∧
    (strict (atPc 0xFFF State.reset)).env.schedule = [] ∧ (strict (atPc 0xFFF State.reset)).cfg.addrPolicy = .fault ∧
    (strict (atPc 0xFFF State.reset)).pc.toNat ≥ 0xFFF := by decide

theorem test_witness_OnlyRndReadsTheRandomByte : ∀ x kk, Instr.ldVxK 3 ≠ .rnd x kk := nofun

/-- A fault of each stage: fetch, decode, execute. -/
theorem test_witness_FaultsArePrecise :
    (strict (atPc 0xFFF State.reset)).fetch = none ∧
    (after (step (strict (atPc 0xFFF State.reset)))).run = .halted ∧
    State.reset.run = .running ∧ State.reset.env.schedule = [] ∧ (after (step State.reset)).run = .halted ∧
    (State.reset.withFetchWord 16 0x00EE).env.schedule = [] ∧
    (after (step (State.reset.withFetchWord 16 0x00EE))).run = .halted := by decide

theorem test_witness_FaultsArePrecise_next : step State.reset = .next (after (step State.reset)) := by rfl

theorem test_witness_FaultOrderIsFetchDecodeExecute :
    State.reset.wait = false ∧ cycleCause State.reset = .unknownOpcode ∧
    cycleCause (strict (atPc 0xFFF State.reset)) = .addressFault ∧
    cycleCause (State.reset.withFetchWord 16 0x00EE) = .stackUnderflow ∧
    cycleCause (State.reset.withFetchWord 16 0x6A42) = .none := by decide

theorem test_witness_HaltedIsStickyUntilReset :
    haltedState.run = .halted ∧ (op1 (.reset []) haltedState).run ≠ .halted := by decide

theorem test_witness_UnloadedRefusesAllButReset :
    unloadedState.run = .unloaded ∧ unloadedState.env.rndArg = none ∧ (∀ rom, Op.tick ≠ .reset rom) ∧
    (op1 (.reset []) unloadedState).run ≠ .unloaded :=
  ⟨by decide, by decide, nofun, by decide⟩

theorem test_witness_ResetLoadsTheRom : (List.replicate 3584 (0xFF : Byte)).length ≤ 3584 := by simp

theorem test_witness_OverlongRomChangesNothing : (List.replicate 3585 (0xFF : Byte)).length > 3584 := by simp

theorem test_witness_NothingSurvivesReset :
    unloadedState.cfg = haltedState.cfg ∧ unloadedState.env = haltedState.env ∧ unloadedState ≠ haltedState := by decide

/-- The invariant in a state with a listed byte, a latched key and a fault behind it. -/
theorem test_witness_EveryOperationKeepsTheInvariant :
    (State.reset.memWrite 0x300 7).Inv ∧ (waiting true).Inv ∧ haltedState.Inv :=
  ⟨by decide, by decide, by decide⟩

theorem test_witness_FrameOfEveryInstruction :
    Memory.wf (State.reset.memWrite 0x300 7).cfg (State.reset.memWrite 0x300 7).mem ∧
    executeCause (.stRegs 15) (strict ((State.reset.memWrite 0x300 7).setI 0xFF0)) = .none ∧
    executeCause (.call 0x300) (depth 15 State.reset) = .none ∧ executeCause .ret (depth 1 State.reset) = .none ∧
    executeCause (.drw 0 1 0) (strict (State.reset.setI 0xFFFF)) = .none := by decide

/-- Each part changes under an instruction that may change it. -/
theorem test_witness_OnlyTheirInstructionsWriteTheDevices :
    (after (exec (.drw 0 0 1) (State.reset.setI 0x50))).fb ≠ State.reset.fb ∧
    (after (exec (.call 0x300) State.reset)).stack ≠ State.reset.stack ∧
    (after (exec (.call 0x300) State.reset)).sp ≠ State.reset.sp ∧
    (after (exec (.ldDtVx 0) (withV [(0, 1)]))).dt ≠ State.reset.dt ∧
    (after (exec (.ldStVx 0) (withV [(0, 1)]))).st ≠ State.reset.st ∧
    (after (exec (.ldI 1) State.reset)).i ≠ State.reset.i ∧
    (after (exec (.ldB 0) (withV [(0, 1)]))).mem ≠ State.reset.mem := by decide

theorem test_witness_ByteWriteChangesExactlyOneByte :
    Memory.wf (State.reset.memWrite 0xFFF 7).cfg (State.reset.memWrite 0xFFF 7).mem ∧
    (State.reset.memWrite 0xFFF 7).mem = [(0xFFF, 7)] := by decide

theorem test_witness_MemoriesThatReadAlikeAreEqual : Memory.wf Config.default [(0x300, 1), (0xFFF, 2)] := by decide

theorem test_witness_StoredBytesAreSeenByTheNextFetch :
    Memory.wf (atPc 0xFFD (State.reset.setI 0xFFD)).cfg (atPc 0xFFD (State.reset.setI 0xFFD)).mem ∧
    (atPc 0xFFD (State.reset.setI 0xFFD)).i = (atPc 0xFFD (State.reset.setI 0xFFD)).pc ∧
    (atPc 0xFFD (State.reset.setI 0xFFD)).pc.toNat ≤ 0xFFD := by decide

theorem test_witness_CallPushesOrOverflows :
    (depth 15 State.reset).sp.val < 16 ∧ (depth 16 State.reset).sp.val = 16 := by decide

theorem test_witness_RetPopsOrUnderflows :
    (depth 1 State.reset).sp.val = (0 : Fin 16).val + 1 ∧ (depth 16 State.reset).sp.val = (15 : Fin 16).val + 1 ∧
    State.reset.sp.val = 0 := by decide

theorem test_witness_CallThenReturnRoundTrip :
    (depth 15 State.reset).sp.val < 16 ∧ (14 : Fin 16).val ≠ (depth 15 State.reset).sp.val := by decide

/-- T-CF-2, and the same at the last even address. -/
theorem test_witness_ParkedStateIsAFixedPoint :
    (State.reset.withFetchWord 16 0x1200).parked = true ∧
    (State.reset.withFetchWord 16 0x1200).env.schedule = [] ∧
    ((strict (atPc 0xFFE State.reset)).withFetchWord 16 0x1FFE).parked = true := by decide

theorem test_witness_LdBStoresTheDigits :
    Memory.wf State.reset.cfg State.reset.mem ∧ (State.reset.setI 0xFFFF).cfg.addrPolicy = .mask ∧
    (strict (State.reset.setI 0xFFD)).i.toNat + 2 ≤ 0xFFF ∧
    (strict (State.reset.setI 0xFFE)).cfg.addrPolicy = .fault ∧ (strict (State.reset.setI 0xFFE)).i.toNat + 2 > 0xFFF := by
  decide

theorem test_witness_StRegsStoresTheBlock :
    Memory.wf State.reset.cfg State.reset.mem ∧ (State.reset.setI 0xFFFF).cfg.addrPolicy = .mask ∧
    (strict (State.reset.setI 0xFF0)).i.toNat + (15 : Nibble).toNat ≤ 0xFFF ∧
    (strict (State.reset.setI 0xFF1)).cfg.addrPolicy = .fault ∧
    (strict (State.reset.setI 0xFF1)).i.toNat + (15 : Nibble).toNat > 0xFFF := by decide

theorem test_witness_LdRegsLoadsTheBlock :
    (State.reset.setI 0xFFFF).cfg.addrPolicy = .mask ∧
    (strict (State.reset.setI 0xFFF)).i.toNat + (0 : Nibble).toNat ≤ 0xFFF ∧
    (strict (State.reset.setI 0xFFF)).cfg.addrPolicy = .fault ∧
    (strict (State.reset.setI 0xFFF)).i.toNat + (1 : Nibble).toNat > 0xFFF := by decide

/-- The three ways of not faulting, and the fault (T-DSP-7, T-DSP-11). -/
theorem test_witness_DrwXorsTheSprite :
    (State.reset.setI 0xFFFF).cfg.addrPolicy = .mask ∧
    (strict (State.reset.setI 0xFFF)).i.toNat + (1 : Nibble).toNat ≤ 0x1000 ∧
    (strict (State.reset.setI 0xFFF)).cfg.addrPolicy = .fault ∧ (2 : Nibble) ≠ 0 ∧
    (strict (State.reset.setI 0xFFF)).i.toNat + (2 : Nibble).toNat > 0x1000 := by decide

/-- Pixel (0, 0) is toggled by the first row of glyph 0 (byte F0), whether it was on or off. -/
theorem test_witness_DrwXorsTheSprite_toggled :
    (State.reset.setI 0x50).toggles 0 0 1 0 0 ∧ (lit (State.reset.setI 0x50) 0 0).toggles 0 0 1 0 0 ∧
    (lit (State.reset.setI 0x50) 0 0).pixel 0 0 = true :=
  ⟨⟨0, 0, by decide, by decide, by decide, by decide⟩, ⟨0, 0, by decide, by decide, by decide, by decide⟩, by decide⟩

/-- A pixel in another row is not toggled, and on an empty screen no toggled pixel is on. -/
theorem test_witness_DrwXorsTheSprite_untouched :
    ¬ (State.reset.setI 0x50).toggles 0 0 1 1 0 ∧
    ∀ py px, (State.reset.setI 0x50).toggles 0 0 1 py px → (State.reset.setI 0x50).pixel py px = false := by
  constructor
  · rintro ⟨r, c, hr, hc, _, h⟩
    have h1 : (1 : Nibble).toNat = 1 := rfl
    have h2 : 0 % 64 + c = 0 ∧ 0 % 32 + r = 1 := h
    omega
  · intro py px _
    simp [State.pixel, State.setI, State.reset]

/-- T-DSP-2 and T-DSP-3 meet the hypotheses. -/
theorem test_witness_DrawingTwiceRestoresTheScreen :
    executeCause (.drw 0 1 5) (State.reset.setI 0x50) = .none ∧
    (after (exec (.drw 0 1 5) (State.reset.setI 0x50))).getV 0 = (State.reset.setI 0x50).getV 0 ∧
    (after (exec (.drw 0 1 5) (State.reset.setI 0x50))).getV 1 = (State.reset.setI 0x50).getV 1 ∧
    (after (exec (.drw 0 1 5) (State.reset.setI 0x50))).i = (State.reset.setI 0x50).i ∧
    (after (exec (.drw 0 1 5) (State.reset.setI 0x50))).cfg = (State.reset.setI 0x50).cfg ∧
    (after (exec (.drw 0 1 5) (State.reset.setI 0x50))).mem = (State.reset.setI 0x50).mem ∧
    (after (exec (.drw 0 1 5) (after (exec (.drw 0 1 5) (State.reset.setI 0x50))))).fb = State.reset.fb ∧
    (after (exec (.drw 0 1 5) (after (exec (.drw 0 1 5) (State.reset.setI 0x50))))).getV 15 = 1 := by decide

theorem test_witness_ClippedDrawStaysInItsRectangle :
    State.reset.cfg.quirkDrawWrap = false ∧
    (after (exec (.drw 0 1 1) ((withV [(0, 63), (1, 31)]).setI 0x50))).pixel 31 63 ≠ State.reset.pixel 31 63 := by decide

theorem test_witness_KeyPressLatchesTheFirst :
    unloadedState.run = .unloaded ∧ (waiting false).run ≠ .unloaded ∧
    ((waiting false).wait = true ∧ (waiting false).kevt = false) ∧
    ¬ ((waiting true).wait = true ∧ (waiting true).kevt = false) := by decide

theorem test_witness_KeyReleaseOnlyClearsTheFlag : unloadedState.run = .unloaded ∧ haltedState.run ≠ .unloaded := by decide

theorem test_witness_KeySkipsReadTheLevel : (5 : Nibble).toNat = ((withV [(0, 0x15)]).getV 0).toNat % 16 := by decide

theorem test_witness_ResumptionNeedsALatchedPress :
    (waiting false).run = .running ∧ (waiting false).wait = true ∧ (waiting false).env.schedule = [] ∧
    (waiting false).kevt = false ∧ (waiting true).kevt = true := by decide

/-- The end of a wait by a Step and by Reset, the latch, and the beginning of a wait. -/
theorem test_witness_OnlyAKeyPressLiftsTheHold :
    (waiting true).Inv ∧ (op1 (.step 0) (waiting true)).wait = false ∧ (op1 (.reset []) (waiting true)).wait = false ∧
    (waiting false).Inv ∧ (op1 (.keyPress 2) (waiting false)).kevt = true ∧
    (State.reset.withFetchWord 16 0xF30A).Inv ∧ (op1 (.step 0) (State.reset.withFetchWord 16 0xF30A)).wait = true :=
  ⟨by decide, by decide, by decide, by decide, by decide, by decide, by decide⟩

theorem test_witness_TickCountsDown : unloadedState.run = .unloaded ∧ (State.reset.setDt 0xFF).run ≠ .unloaded := by decide

theorem test_witness_ManyTicksReachZeroAndStay : (State.reset.setDt 2).run ≠ .unloaded := by decide

theorem test_witness_RndMasksTheRandomByte :
    (State.reset.setRndArg (some 0xB7)).env.rndArg = some 0xB7 ∧ State.reset.env.rndArg = none := by decide

end Sys2Proof.Tests
end

section
/-! PROOF. Every operation keeps the invariant (00_scope.md R5; O18). Within a Step the field `rndArg`
holds that Step's argument, so the invariant is first stated for any value of it. -/

namespace Sys2Proof.Machine

/-- The invariant while the argument of the Step in progress is `r`; `State.Inv` is the case `none`. -/
def State.InvDuring (r : Option Byte) (s : State) : Prop :=
  Memory.wf s.cfg s.mem ∧
  (s.kevt = true → s.wait = true) ∧
  (s.run = .running → s.fcode = .none) ∧
  (s.run = .halted → s.fcode ≠ .none ∧ s.fcode ≠ .invalidRom) ∧
  (s.run = .halted → s.wait = false) ∧
  (s.run = .halted → s.fcode = .addressFault → s.cfg.addrPolicy = .fault) ∧
  s.env.rndArg = r

theorem State.inv_iff_invDuring (s : State) : s.Inv ↔ s.InvDuring none := Iff.rfl

variable {s t : State} {r : Option Byte}

/-! Updates of fields the invariant does not speak of -/

@[simp] theorem State.invDuring_setV (x : Nibble) (b : Byte) : (s.setV x b).InvDuring r ↔ s.InvDuring r := Iff.rfl
@[simp] theorem State.invDuring_advance : s.advance.InvDuring r ↔ s.InvDuring r := Iff.rfl
@[simp] theorem State.invDuring_setDt (b : Byte) : (s.setDt b).InvDuring r ↔ s.InvDuring r := Iff.rfl
@[simp] theorem State.invDuring_setSt (b : Byte) : (s.setSt b).InvDuring r ↔ s.InvDuring r := Iff.rfl
@[simp] theorem State.invDuring_setKey (k : Nibble) : (s.setKey k).InvDuring r ↔ s.InvDuring r := Iff.rfl
@[simp] theorem State.invDuring_clearKey (k : Nibble) : (s.clearKey k).InvDuring r ↔ s.InvDuring r := Iff.rfl
@[simp] theorem State.invDuring_setSchedule (l : List Op) : (s.setSchedule l).InvDuring r ↔ s.InvDuring r := Iff.rfl

/-! Updates of fields it speaks of -/

/-- The argument of a Step comes and goes without touching CORE. -/
theorem State.InvDuring.setRndArg (h : s.InvDuring r) (q : Option Byte) : (s.setRndArg q).InvDuring q := by
  obtain ⟨hmem, hkevt, hrunning, hcode, hwait, haddr, -⟩ := h
  exact ⟨hmem, hkevt, hrunning, hcode, hwait, haddr, rfl⟩

/-- The latch is for a waiting CORE (R120). -/
theorem State.InvDuring.latchKey (h : s.InvDuring r) (hw : s.wait = true) (k : Nibble) :
    (s.latchKey k).InvDuring r := by
  obtain ⟨hmem, -, hfaults⟩ := h
  exact ⟨hmem, fun _ => hw, hfaults⟩

/-- The end of a wait clears WAIT and KEVT together (R125). -/
theorem State.InvDuring.leaveWait (h : s.InvDuring r) : s.leaveWait.InvDuring r := by
  obtain ⟨hmem, -, hrunning, hcode, -, haddr, hrnd⟩ := h
  exact ⟨hmem, by simp, hrunning, hcode, fun _ => rfl, haddr, hrnd⟩

/-- Fault entry (R146) outside a wait, with a code that the invariant allows a halted CORE. -/
theorem State.InvDuring.takeFault (h : s.InvDuring r) (hw : s.wait = false) {c : FaultCode} (hc : c ≠ .none)
    (hcode : c ≠ .invalidRom ∧ (c = .addressFault → s.cfg.addrPolicy = .fault)) (a op : Word) :
    (s.takeFault c a op).InvDuring r := by
  obtain ⟨hrom, haddr⟩ := hcode
  obtain ⟨hmem, hkevt, -, -, -, -, hrnd⟩ := h
  exact ⟨hmem, hkevt, by simp, fun _ => ⟨hc, hrom⟩, fun _ => hw, fun _ => haddr, hrnd⟩

/-- What an instruction without a fault does to a running CORE keeps the invariant. -/
theorem State.InvDuring.of_kept (h : s.InvDuring r) (hr : s.run = .running) (hk : Kept s t) : t.InvDuring r := by
  obtain ⟨hmem, hkevt, hrunning, -, -, -, hrnd⟩ := h
  obtain ⟨krun, kfcode, -, -, -, -, krnd, kmem, kwait⟩ := hk
  have htr : t.run ≠ .halted := by simp [krun, hr]
  have hlatch : t.kevt = true → t.wait = true := by
    rcases kwait with ⟨hw, hv⟩ | ⟨hw, -⟩
    · rwa [hw, hv]
    · exact fun _ => hw
  exact ⟨kmem hmem, hlatch, fun _ => kfcode.trans (hrunning hr), fun hh => absurd hh htr,
    fun hh => absurd hh htr, fun hh => absurd hh htr, krnd.trans hrnd⟩

/-! The faults of a cycle: InvalidRom is none of them, and AddressFault needs ADDR_POLICY = FAULT (R140, R145) -/

theorem addrPolicy_of_ea_eq_none {c : Config} {a : Nat} (h : ea c a = none) : c.addrPolicy = .fault := by
  have hfault : c.addrPolicy = .fault ∧ 0xFFF < a := by simpa [ea, addrFaults] using h
  exact hfault.1

theorem State.addrPolicy_of_fetch_eq_none (h : s.fetch = none) : s.cfg.addrPolicy = .fault := by
  cases hhi : ea s.cfg s.pc.toNat with
  | none => exact addrPolicy_of_ea_eq_none hhi
  | some hi =>
    cases hlo : ea s.cfg (s.pc + 1).toNat with
    | none => exact addrPolicy_of_ea_eq_none hlo
    | some lo => simp only [State.fetch, hhi, hlo, reduceCtorEq] at h

/-- A block access faults only under ADDR_POLICY = FAULT (R36). -/
theorem State.blockFault_code (s : State) (a n : Nat) {c : FaultCode}
    (h : (if s.blockFaults a n then FaultCode.addressFault else .none) = c) :
    c ≠ .invalidRom ∧ (c = .addressFault → s.cfg.addrPolicy = .fault) := by
  subst h
  split
  · next hf => exact ⟨by decide, fun _ => ((s.blockFaults_iff a n).1 hf).1⟩
  · exact ⟨by decide, nofun⟩

theorem executeCause_code (i : Instr) (s : State) :
    executeCause i s ≠ .invalidRom ∧ (executeCause i s = .addressFault → s.cfg.addrPolicy = .fault) := by
  cases i with
  | drw x y n => exact s.blockFault_code _ _ rfl
  | ldB x => exact s.blockFault_code _ _ rfl
  | stRegs x => exact s.blockFault_code _ _ rfl
  | ldRegs x => exact s.blockFault_code _ _ rfl
  | ret => simp only [executeCause]; split <;> simp
  | call nnn => simp only [executeCause]; split <;> simp
  | _ => exact ⟨nofun, nofun⟩

/-- The code of a cycle's fault, whatever its stage (R148). -/
theorem cycleCause_code (s : State) :
    cycleCause s ≠ .invalidRom ∧ (cycleCause s = .addressFault → s.cfg.addrPolicy = .fault) := by
  unfold cycleCause
  split
  · next hf => exact ⟨by decide, fun _ => s.addrPolicy_of_fetch_eq_none hf⟩
  · split
    · exact ⟨by decide, nofun⟩
    · exact executeCause_code _ s

/-! The operations -/

/-- A cycle of a running CORE outside a wait (R58): its instruction runs, or its fault halts CORE. -/
theorem cycle_keeps_invDuring (h : s.InvDuring r) (hr : s.run = .running) (hw : s.wait = false)
    (he : cycle s = .next t) : t.InvDuring r := by
  rcases cycle_effect s with ⟨hc, u, op, hcyc, hu⟩ | ⟨-, u, hcyc, hk⟩ <;> rw [hcyc] at he <;> cases he
  · have hadv : u = s ∨ u = s.advance := by
      rcases hu with ⟨-, rfl, -⟩ | ⟨-, rfl⟩ | ⟨-, -, -, -, -, rfl⟩ <;> simp
    rcases hadv with rfl | rfl
    · exact h.takeFault hw hc (cycleCause_code _) _ _
    · exact (State.invDuring_advance.2 h).takeFault hw hc (cycleCause_code _) _ _
  · exact (State.invDuring_advance.2 h).of_kept hr hk

theorem resumeWait_keeps_invDuring (h : s.InvDuring r) : (resumeWait s).InvDuring r := by
  unfold resumeWait
  split
  · exact ((State.invDuring_setV _ _).2 h).leaveWait
  · exact h

/-- A Step in every run state (R56). -/
theorem coreStep_keeps_invDuring (h : s.InvDuring r) (he : coreStep s = .next t) : t.InvDuring r := by
  cases hr : s.run with
  | unloaded => rw [coreStep_unloaded hr] at he; cases he; exact h
  | halted => rw [coreStep_halted hr] at he; cases he; exact h
  | running =>
    rw [coreStep_running hr] at he
    cases hw : s.wait with
    | true => simp only [hw, if_true] at he; cases he; exact resumeWait_keeps_invDuring h
    | false => simp only [hw, Bool.false_eq_true, if_false] at he; exact cycle_keeps_invDuring h hr hw he

/-- Reset writes every field of CORE; only the ROM bytes of memory are not constants (R160, R161). -/
theorem resetOp_keeps_invDuring (h : s.InvDuring r) (rom : List Byte) : (resetOp rom s).InvDuring r := by
  unfold resetOp
  split
  · obtain ⟨-, -, -, -, -, -, hrnd⟩ := h
    exact ⟨State.writeBytes_wf _ (Memory.nil_wf _) _ _, by simp [State.reset], by simp [State.reset],
      by simp [State.reset], by simp [State.reset], by simp [State.reset], by simpa using hrnd⟩
  · exact h

theorem tick_keeps_invDuring (h : s.InvDuring r) : (tick s).InvDuring r := by
  unfold tick
  split
  · exact h
  · simpa using h

/-- A press latches only when CORE waits (R120). -/
theorem keyPress_keeps_invDuring (h : s.InvDuring r) (k : Nibble) : (keyPress k s).InvDuring r := by
  have hset : (s.setKey k).InvDuring r := (State.invDuring_setKey k).2 h
  unfold keyPress
  split
  · exact h
  · split
    · next hpending =>
      obtain ⟨hw, -⟩ := Bool.and_eq_true_iff.1 hpending
      exact hset.latchKey hw k
    · exact hset

theorem keyRelease_keeps_invDuring (h : s.InvDuring r) (k : Nibble) : (keyRelease k s).InvDuring r := by
  unfold keyRelease
  split
  · exact h
  · simpa using h

/-- One operation of the caller (R5). -/
theorem perform_keeps_invDuring_none (o : Op) (h : s.InvDuring none) (he : perform o s = .next t) :
    t.InvDuring none := by
  cases o with
  | reset rom => cases he; exact resetOp_keeps_invDuring h rom
  | tick => cases he; exact tick_keeps_invDuring h
  | keyPress k => cases he; exact keyPress_keeps_invDuring h k
  | keyRelease k => cases he; exact keyRelease_keeps_invDuring h k
  | step b =>
    have hs : (s.setRndArg (some b)).InvDuring (some b) := h.setRndArg _
    simp only [perform] at he
    cases hc : coreStep (s.setRndArg (some b)) with
    | next u => rw [hc] at he; cases he; exact (coreStep_keeps_invDuring hs hc).setRndArg none
    | fault e => rw [hc] at he; cases he
    | refused e => rw [hc] at he; cases he

/-- Settles O18: the operation that `step` performs is a Step or the oldest of the schedule, and each of the
five operations keeps the invariant. -/
theorem everyOperationKeepsTheInvariant : Obligations.EveryOperationKeepsTheInvariant := by
  intro s t h he
  rw [State.inv_iff_invDuring] at h ⊢
  cases hs : s.env.schedule with
  | nil => rw [step_nil hs] at he; exact coreStep_keeps_invDuring h he
  | cons o rest =>
    rw [step_cons hs] at he
    exact perform_keeps_invDuring_none o ((State.invDuring_setSchedule rest).2 h) he

end Sys2Proof.Machine
end

section
/-! PROOF. Which parts of the state an instruction moves (R12, R13, R16 to R19, R39, R49, R136; O21, O22).
`Part.Unmoved` is the frame on the stored fields; the frame on what a program reads, `Part.Same`, follows. -/

namespace Sys2Proof.Machine

/-- The part is stored in `t` as it is in `s`; `Part.Same` says this through reads. What memory reads depends on
the parameters too (the font of R31). -/
def Part.Unmoved (s t : State) : Part → Prop
  | .v => t.v = s.v
  | .i => t.i = s.i
  | .pc => t.pc = s.pc
  | .stack => t.stack = s.stack ∧ t.sp = s.sp
  | .dt => t.dt = s.dt
  | .st => t.st = s.st
  | .fb => t.fb = s.fb
  | .keys => t.keys = s.keys
  | .waiting => t.wait = s.wait ∧ t.waitReg = s.waitReg ∧ t.kevt = s.kevt ∧ t.kcode = s.kcode
  | .faults => t.run = s.run ∧ t.fcode = s.fcode ∧ t.fpc = s.fpc ∧ t.fop = s.fop
  | .mem => t.mem = s.mem ∧ t.cfg = s.cfg
  | .cfg => t.cfg = s.cfg
  | .env => t.env = s.env

variable {i : Instr} {p : Part} {s t : State}

@[simp] theorem Part.unmoved_self : p.Unmoved s s := by
  cases p <;> simp [Part.Unmoved]

/-- What is stored alike reads alike. -/
theorem Part.Unmoved.same (h : p.Unmoved s t) : p.Same s t := by
  cases p <;> simp_all [Part.Unmoved, Part.Same, State.getV, State.pixel, State.keyDown, State.memRead]

/-! Each update moves its own part only -/

@[simp] theorem Part.unmoved_setV (hp : p ≠ .v) (x : Nibble) (b : Byte) :
    p.Unmoved s (t.setV x b) ↔ p.Unmoved s t := by
  cases p <;> simp_all [Part.Unmoved]

@[simp] theorem Part.unmoved_setI (hp : p ≠ .i) (w : Word) : p.Unmoved s (t.setI w) ↔ p.Unmoved s t := by
  cases p <;> simp_all [Part.Unmoved]

@[simp] theorem Part.unmoved_setPc (hp : p ≠ .pc) (w : Word) : p.Unmoved s (t.setPc w) ↔ p.Unmoved s t := by
  cases p <;> simp_all [Part.Unmoved]

@[simp] theorem Part.unmoved_skipIf (hp : p ≠ .pc) (c : Bool) : p.Unmoved s (t.skipIf c) ↔ p.Unmoved s t := by
  cases p <;> simp_all [Part.Unmoved]

@[simp] theorem Part.unmoved_setDt (hp : p ≠ .dt) (b : Byte) : p.Unmoved s (t.setDt b) ↔ p.Unmoved s t := by
  cases p <;> simp_all [Part.Unmoved]

@[simp] theorem Part.unmoved_setSt (hp : p ≠ .st) (b : Byte) : p.Unmoved s (t.setSt b) ↔ p.Unmoved s t := by
  cases p <;> simp_all [Part.Unmoved]

@[simp] theorem Part.unmoved_setFb (hp : p ≠ .fb) (f : Vector (BitVec 64) 32) :
    p.Unmoved s (t.setFb f) ↔ p.Unmoved s t := by
  cases p <;> simp_all [Part.Unmoved]

@[simp] theorem Part.unmoved_push (hp : p ≠ .stack) (w : Word) (h : t.sp.val < 16) :
    p.Unmoved s (t.push w h) ↔ p.Unmoved s t := by
  cases p <;> simp_all [Part.Unmoved]

@[simp] theorem Part.unmoved_pop (hp : p ≠ .stack) : p.Unmoved s t.pop ↔ p.Unmoved s t := by
  cases p <;> simp_all [Part.Unmoved]

@[simp] theorem Part.unmoved_writeBytes (hp : p ≠ .mem) (a : Nat) (bs : List Byte) :
    p.Unmoved s (t.writeBytes a bs) ↔ p.Unmoved s t := by
  cases p <;> simp_all [Part.Unmoved]

@[simp] theorem Part.unmoved_loadBlock (hp : p ≠ .v) (x : Nibble) (a : Nat) :
    p.Unmoved s (t.loadBlock x a) ↔ p.Unmoved s t := by
  cases p <;> simp_all [Part.Unmoved]

@[simp] theorem Part.unmoved_drawn (hp : p ≠ .env) : p.Unmoved s t.drawn ↔ p.Unmoved s t := by
  cases p <;> simp_all [Part.Unmoved]

@[simp] theorem Part.unmoved_enterWait (hpc : p ≠ .pc) (hwait : p ≠ .waiting) (x : Nibble) :
    p.Unmoved s (t.enterWait x) ↔ p.Unmoved s t := by
  cases p <;> simp_all [Part.Unmoved]

@[simp] theorem Part.unmoved_raise (hp : p ≠ .faults) (c : FaultCode) (i : Instr) :
    p.Unmoved s (t.raise c i) ↔ p.Unmoved s t := by
  cases p <;> simp_all [Part.Unmoved, State.raise_eq]

/-! When the instructions with an execute-stage fault have none (R36, R66, R67) -/

theorem executeCause_ret_iff : executeCause .ret s = .none ↔ 0 < s.sp.val := by
  rw [← not_iff_not, s.sp_empty_iff]; simp [executeCause]

theorem executeCause_call_iff (nnn : Addr12) : executeCause (.call nnn) s = .none ↔ s.sp.val < 16 := by
  rw [← not_iff_not, s.sp_full_iff]; simp [executeCause]

theorem executeCause_drw_iff (x y n : Nibble) :
    executeCause (.drw x y n) s = .none ↔ s.blockFaults s.i.toNat n.toNat = false := by
  simp [executeCause]

theorem executeCause_ldB_iff (x : Nibble) :
    executeCause (.ldB x) s = .none ↔ s.blockFaults s.i.toNat 3 = false := by
  simp [executeCause]

theorem executeCause_stRegs_iff (x : Nibble) :
    executeCause (.stRegs x) s = .none ↔ s.blockFaults s.i.toNat (x.toNat + 1) = false := by
  simp [executeCause]

theorem executeCause_ldRegs_iff (x : Nibble) :
    executeCause (.ldRegs x) s = .none ↔ s.blockFaults s.i.toNat (x.toNat + 1) = false := by
  simp [executeCause]

/-! The frame of an instruction without a fault -/

/-- Every part that the instruction's rule does not name stays as it is stored. -/
theorem exec_unmoved (hc : executeCause i s = .none) (he : exec i s = .next t) (hp : p ∉ writesParts i) :
    p.Unmoved s t := by
  cases i with
  | ret =>
    cases (execRet_pop s (executeCause_ret_iff.1 hc)).symm.trans he
    simp_all [writesParts]
  | call nnn =>
    cases (execCall_push s nnn ((executeCause_call_iff nnn).1 hc)).symm.trans he
    simp_all [writesParts]
  | drw x y n =>
    cases (execDrw_ok s x y n ((executeCause_drw_iff x y n).1 hc)).symm.trans he
    simp_all [writesParts]
  | ldB x =>
    cases (execLdB_ok s x ((executeCause_ldB_iff x).1 hc)).symm.trans he
    simp_all [writesParts]
  | stRegs x =>
    cases (execStRegs_ok s x ((executeCause_stRegs_iff x).1 hc)).symm.trans he
    simp_all [writesParts]
  | ldRegs x =>
    cases (execLdRegs_ok s x ((executeCause_ldRegs_iff x).1 hc)).symm.trans he
    simp_all [writesParts]
  | addI x =>
    cases hq : s.cfg.quirkAddIVf with
    | true => cases (execAddI_quirk s x hq).symm.trans he; simp_all [writesParts]
    | false => cases (execAddI_plain s x hq).symm.trans he; simp_all [writesParts]
  | _ => cases he; simp_all [writesParts, State.setVFlag_eq]

theorem exec_onlyChanges (hc : executeCause i s = .none) (he : exec i s = .next t) :
    OnlyChanges (writesParts i) s t :=
  fun _ hp => (exec_unmoved hc he hp).same

/-- A register outside R12's and R49's list keeps its byte. -/
theorem exec_getV_of_not_writesV (hc : executeCause i s = .none) (he : exec i s = .next t) {r : Nibble}
    (hr : ¬ writesV s.cfg r i) : t.getV r = s.getV r := by
  by_cases hv : Part.v ∈ writesParts i
  · cases i with
    | ret | call | ldB | stRegs => simp [writesParts] at hv
    | drw x y n =>
      cases (execDrw_ok s x y n ((executeCause_drw_iff x y n).1 hc)).symm.trans he
      simp_all [writesV, vf]
    | ldRegs x =>
      cases (execLdRegs_ok s x ((executeCause_ldRegs_iff x).1 hc)).symm.trans he
      simp_all [writesV]
    | addI x =>
      cases hq : s.cfg.quirkAddIVf with
      | true => cases (execAddI_quirk s x hq).symm.trans he; simp_all [writesV, vf]
      | false => cases (execAddI_plain s x hq).symm.trans he; simp
    | _ => cases he; simp_all [writesParts, writesV, State.getV_setVFlag, vf]
  · exact exec_onlyChanges hc he .v hv r

/-- A byte outside the stored block keeps its value (R39). -/
theorem exec_memRead_outside (hm : Memory.wf s.cfg s.mem) (hc : executeCause i s = .none)
    (he : exec i s = .next t) {a : Nat} (ha : ∀ j < storeLength i, wrapAddr (s.i.toNat + j) ≠ wrapAddr a) :
    t.memRead a = s.memRead a := by
  by_cases hmem : Part.mem ∈ writesParts i
  · cases i with
    | ldB x =>
      cases (execLdB_ok s x ((executeCause_ldB_iff x).1 hc)).symm.trans he
      exact s.memRead_writeBytes_outside hm _ _ _ ha
    | stRegs x =>
      cases (execStRegs_ok s x ((executeCause_stRegs_iff x).1 hc)).symm.trans he
      exact s.memRead_writeBytes_outside hm _ _ _ (by rwa [State.regBlock_length])
    | _ => simp [writesParts] at hmem
  · exact exec_onlyChanges hc he .mem hmem a

/-- Settles O21: the parts, the registers and the bytes that an instruction without a fault leaves alone. -/
theorem frameOfEveryInstruction : Obligations.FrameOfEveryInstruction :=
  fun _ _ _ hm hc he =>
    ⟨exec_onlyChanges hc he, fun _ => exec_getV_of_not_writesV hc he, fun _ => exec_memRead_outside hm hc he⟩

/-! The instructions whose rule names a part -/

theorem fb_mem_writesParts_iff : Part.fb ∈ writesParts i ↔ i = .cls ∨ ∃ x y n, i = .drw x y n := by
  cases i <;> simp [writesParts]

theorem stack_mem_writesParts_iff : Part.stack ∈ writesParts i ↔ i = .ret ∨ ∃ nnn, i = .call nnn := by
  cases i <;> simp [writesParts]

theorem dt_mem_writesParts_iff : Part.dt ∈ writesParts i ↔ ∃ x, i = .ldDtVx x := by
  cases i <;> simp [writesParts]

theorem st_mem_writesParts_iff : Part.st ∈ writesParts i ↔ ∃ x, i = .ldStVx x := by
  cases i <;> simp [writesParts]

theorem i_mem_writesParts_iff :
    Part.i ∈ writesParts i ↔ (∃ nnn, i = .ldI nnn) ∨ (∃ x, i = .addI x) ∨ ∃ x, i = .ldF x := by
  cases i <;> simp [writesParts]

theorem mem_mem_writesParts_iff : Part.mem ∈ writesParts i ↔ (∃ x, i = .ldB x) ∨ ∃ x, i = .stRegs x := by
  cases i <;> simp [writesParts]

theorem keys_not_mem_writesParts : Part.keys ∉ writesParts i := by
  cases i <;> simp [writesParts]

theorem cfg_not_mem_writesParts : Part.cfg ∉ writesParts i := by
  cases i <;> simp [writesParts]

/-- With or without a fault: a part other than the fault registers moves only if the rule names it. -/
theorem exec_unmoved_or_mem (he : exec i s = .next t) (hf : p ≠ .faults) :
    p.Unmoved s t ∨ p ∈ writesParts i := by
  rcases exec_cases i s with ⟨-, hraise⟩ | ⟨hc, -⟩
  · cases hraise.symm.trans he
    left; simp [hf]
  · exact or_iff_not_imp_right.2 (exec_unmoved hc he)

/-- RET leaves the array of the stack alone, popped or faulted (R16, R67). -/
theorem exec_ret_stack (he : exec .ret s = .next t) : t.stack = s.stack := by
  by_cases h : 0 < s.sp.val
  · cases (execRet_pop s h).symm.trans he; simp
  · cases (execRet_empty s (s.sp_empty_iff.1 h)).symm.trans he; simp [State.raise_eq]

/-- Settles O22: each part is unmoved, or the instruction's rule names it. -/
theorem onlyTheirInstructionsWriteTheDevices : Obligations.OnlyTheirInstructionsWriteTheDevices := by
  intro i s t he
  have hkeys : t.keys = s.keys := (exec_unmoved_or_mem (p := .keys) he nofun).resolve_right keys_not_mem_writesParts
  have hcfg : t.cfg = s.cfg := (exec_unmoved_or_mem (p := .cfg) he nofun).resolve_right cfg_not_mem_writesParts
  have moved {p : Part} (hf : p ≠ .faults) (hn : ¬ p.Unmoved s t) : p ∈ writesParts i :=
    (exec_unmoved_or_mem he hf).resolve_left hn
  refine ⟨hkeys, hcfg,
    fun h => fb_mem_writesParts_iff.1 (moved nofun h), fun h => ?_,
    fun h => stack_mem_writesParts_iff.1 (moved nofun fun hu => h hu.2),
    fun h => dt_mem_writesParts_iff.1 (moved nofun h), fun h => st_mem_writesParts_iff.1 (moved nofun h),
    fun h => i_mem_writesParts_iff.1 (moved nofun h),
    fun h => mem_mem_writesParts_iff.1 (moved nofun fun hu => h hu.1)⟩
  rcases stack_mem_writesParts_iff.1 (moved (p := .stack) nofun fun hu => h hu.1) with rfl | hcall
  · exact absurd (exec_ret_stack he) h
  · exact hcall

end Sys2Proof.Machine
end

section
/-! PROOF. The call stack: a return, its fault, and a call followed by its return (R16, R66, R67, R144, R146;
O28, O29). -/

namespace Sys2Proof.Machine

variable {s : State}

/-- A fault in execution is a precise halt (R146). -/
theorem State.haltedBy_raise (s : State) (c : FaultCode) (i : Instr) :
    HaltedBy c (s.pc - 2) (encode i) s (s.raise c i) :=
  ⟨rfl, rfl, rfl, rfl, fun _ hp => Part.Unmoved.same (by simp_all)⟩

/-- Settles O28: the two ways of RET, by SP. -/
theorem retPopsOrUnderflows : Obligations.RetPopsOrUnderflows := by
  refine ⟨rfl, fun s => ⟨fun j hj => ?_, fun hempty => ?_⟩⟩
  · have hpos : 0 < s.sp.val := by omega
    have he : exec .ret s = .next (s.pop.setPc (s.top hpos)) := execRet_pop s hpos
    exact ⟨_, he, exec_onlyChanges (executeCause_ret_iff.2 hpos) he, by simp [State.top, hj], by simp [hj], by simp⟩
  · exact ⟨_, execRet_empty s (s.sp_empty_iff.1 (by omega)), s.haltedBy_raise _ _⟩

/-- Settles O29: CALL pushes PC, and RET, wherever CALL went, pops it. -/
theorem callThenReturnRoundTrip : Obligations.CallThenReturnRoundTrip := by
  intro s nnn hsp
  obtain ⟨htop, hpop⟩ := s.top_push s.pc hsp
  refine ⟨_, _, execCall_push s nnn hsp, execRet_pop _ (by simp [State.advance_eq]), htop, hpop,
    fun p hp => ?_, fun j hj => ?_⟩
  · by_cases hpc : p = .pc
    · subst hpc; exact htop
    · exact Part.Unmoved.same (by simp_all [State.advance_eq])
  · simp [State.advance_eq, Vector.getElem_set_ne, hj.symm]

end Sys2Proof.Machine
end

section
/-! PROOF. Memory's canonical form holds nothing but the byte array (R22, R30, log 6; O24). -/

namespace Sys2Proof.Machine

variable {c : Config} {m : Memory}

/-- A byte that memory reads is listed, or it is the background (log 6). -/
theorem Memory.read_listed_or_background (c : Config) (m : Memory) (a : Nat) :
    (a, Memory.read c m a) ∈ m ∨ Memory.read c m a = Memory.background c a := by
  induction m with
  | nil => exact .inr rfl
  | cons e rest ih =>
    simp only [Memory.read]
    split
    · next h => subst h; exact .inl (by simp)
    · exact ih.imp_left (List.mem_cons_of_mem e)

/-- A listed cell is what its address reads. -/
theorem Memory.read_of_mem (h : m.Pairwise fun p q => p.1 < q.1) {e : Host.Cell} (he : e ∈ m) :
    Memory.read c m e.1 = e.2 := by
  induction m with
  | nil => simp at he
  | cons f rest ih =>
    obtain ⟨hlt, hrest⟩ := List.pairwise_cons.1 h
    rcases List.mem_cons.1 he with rfl | he
    · simp [Memory.read]
    · simpa [Memory.read, (hlt e he).ne] using ih hrest he

/-- The cells of a canonical memory, read off the byte array. -/
theorem Memory.mem_iff_read (h : Memory.wf c m) (e : Host.Cell) :
    e ∈ m ↔ e.1 < 4096 ∧ Memory.read c m e.1 = e.2 ∧ e.2 ≠ Memory.background c e.1 := by
  obtain ⟨hsorted, hcells⟩ := h
  constructor
  · intro he
    obtain ⟨hlt, hne⟩ := hcells e he
    exact ⟨hlt, Memory.read_of_mem hsorted he, hne⟩
  · rintro ⟨-, hread, hne⟩
    have := (Memory.read_listed_or_background c m e.1).resolve_right (by rwa [hread])
    rwa [hread] at this

/-- Settles O24: the two lists have the same cells, and a rising list is determined by its cells. -/
theorem memoriesThatReadAlikeAreEqual : Obligations.MemoriesThatReadAlikeAreEqual := by
  intro c m m' hm hm' hread
  have hcells (e : Host.Cell) : e ∈ m ↔ e ∈ m' := by
    rw [Memory.mem_iff_read hm, Memory.mem_iff_read hm']
    exact and_congr_right fun hlt => by rw [hread _ hlt]
  exact hm.1.eq_of_mem_iff hm'.1 @hcells

end Sys2Proof.Machine
end

section
/-! PROOF. What Reset leaves (R20 to R24, R160, R162; O15, O19, O20). -/

namespace Sys2Proof.Machine

/-- CORE as Reset leaves it before the ROM is copied, the parameters and the environment kept (log 14). -/
def State.cleared (s : State) : State := { State.reset with cfg := s.cfg, env := s.env }

variable (s : State)

theorem resetOp_of_fits {rom : List Byte} (h : romFits rom = true) :
    resetOp rom s = s.cleared.writeBytes romBase rom := if_pos h

@[simp] theorem State.cleared_i : s.cleared.i = 0 := rfl
@[simp] theorem State.cleared_pc : s.cleared.pc = 0x200 := rfl
@[simp] theorem State.cleared_stack : s.cleared.stack = Vector.replicate 16 0 := rfl
@[simp] theorem State.cleared_sp : s.cleared.sp = 0 := rfl
@[simp] theorem State.cleared_dt : s.cleared.dt = 0 := rfl
@[simp] theorem State.cleared_st : s.cleared.st = 0 := rfl
@[simp] theorem State.cleared_wait : s.cleared.wait = false := rfl
@[simp] theorem State.cleared_waitReg : s.cleared.waitReg = 0 := rfl
@[simp] theorem State.cleared_kevt : s.cleared.kevt = false := rfl
@[simp] theorem State.cleared_kcode : s.cleared.kcode = 0 := rfl
@[simp] theorem State.cleared_run : s.cleared.run = .running := rfl
@[simp] theorem State.cleared_fcode : s.cleared.fcode = .none := rfl
@[simp] theorem State.cleared_fpc : s.cleared.fpc = 0 := rfl
@[simp] theorem State.cleared_fop : s.cleared.fop = 0 := rfl
@[simp] theorem State.cleared_cfg : s.cleared.cfg = s.cfg := rfl

@[simp] theorem State.cleared_getV (r : Nibble) : s.cleared.getV r = 0 := by
  simp [State.getV, State.cleared, State.reset]

@[simp] theorem State.cleared_pixel (y : Fin 32) (x : Fin 64) : s.cleared.pixel y x = false := by
  simp [State.pixel, State.cleared, State.reset]

@[simp] theorem State.cleared_keyDown (k : Nibble) : s.cleared.keyDown k = false := by
  simp [State.keyDown, State.cleared, State.reset]

/-- Nothing is listed, so memory is the background (log 6). -/
theorem State.cleared_memRead {a : Nat} (ha : a < 4096) : s.cleared.memRead a = Memory.background s.cfg a := by
  simp [State.memRead, State.cleared, State.reset, Memory.read, wrapAddr, Nat.mod_eq_of_lt ha]

theorem Memory.background_font (c : Config) (j : Fin 80) :
    Memory.background c (c.fontBase.val + j.val) = c.font[j] := by
  simp [Memory.background]

theorem Memory.background_outside (c : Config) {a : Nat}
    (ha : ¬ (c.fontBase.val ≤ a ∧ a < c.fontBase.val + 80)) : Memory.background c a = 0 := dif_neg ha

/-- An address outside the copied ROM reads as the background (R160). -/
theorem State.memRead_loaded_outside {rom : List Byte} (hlen : rom.length ≤ 3584) {a : Nat} (ha : a < 4096)
    (hout : ¬ (0x200 ≤ a ∧ a < 0x200 + rom.length)) :
    (s.cleared.writeBytes romBase rom).memRead a = Memory.background s.cfg a := by
  rw [State.memRead_writeBytes_outside _ (Memory.nil_wf _), s.cleared_memRead ha]
  intro j hj
  simp only [wrapAddr, romBase]
  omega

/-- Settles O15: the registers are those of the cleared state; memory is the ROM over the background, and the
font ends below the ROM. -/
theorem resetLoadsTheRom : Obligations.ResetLoadsTheRom := by
  intro s rom hlen
  have hfits : romFits rom = true := (romFits_iff rom).2 hlen
  have hperform : perform (.reset rom) s = .next (s.cleared.writeBytes romBase rom) :=
    congrArg Host.Outcome.next (resetOp_of_fits s hfits)
  have hrom (j : Nat) (hj : j < rom.length) : (s.cleared.writeBytes romBase rom).memRead (0x200 + j) = rom[j] :=
    State.memRead_writeBytes_inside _ (Memory.nil_wf _) romBase j rom (by omega) hj
  have hfont (j : Fin 80) :
      (s.cleared.writeBytes romBase rom).memRead (s.cfg.fontBase.val + j.val) = s.cfg.font[j] := by
    rw [s.memRead_loaded_outside hlen (by omega) (by omega), Memory.background_font]
  have hzero (a : Nat) (ha : a < 4096) (hout : ¬ (0x200 ≤ a ∧ a < 0x200 + rom.length))
      (hnofont : ¬ (s.cfg.fontBase.val ≤ a ∧ a < s.cfg.fontBase.val + 80)) :
      (s.cleared.writeBytes romBase rom).memRead a = 0 := by
    rw [s.memRead_loaded_outside hlen ha hout, Memory.background_outside _ hnofont]
  have hmem := And.intro hrom (And.intro hfont hzero)
  exact ⟨_, hperform, if_pos hfits, by simpa using hmem⟩

/-- Settles O19: nothing is listed in memory, and CORE is RUNNING with no wait and no fault. -/
theorem resetMeetsTheInvariant : Obligations.ResetMeetsTheInvariant :=
  ⟨Memory.nil_wf _, nofun, fun _ => rfl, nofun, nofun, nofun, rfl⟩

/-- The reset state is what Reset with the empty ROM makes of it (log 4). -/
theorem perform_reset_nil_reset : perform (.reset []) State.reset = .next State.reset := rfl

/-- Settles O20: the reset state is the result of a Reset with the empty ROM, of which O15 speaks. -/
theorem resetValuesAreThoseOfTheTable : Obligations.ResetValuesAreThoseOfTheTable := by
  obtain ⟨t, ht, -, hv, hi, hstack, hsp, hdt, hst, hfb, hkeys, hwait, hreg, hkevt, hkcode, hpc, hrun, hfcode, hfpc,
    hfop, -, hfont, hzero⟩ := resetLoadsTheRom State.reset [] (by simp)
  cases perform_reset_nil_reset.symm.trans ht
  exact ⟨hv, hi, hpc, hsp, hstack, hdt, hst, hfb, hkeys, hwait, hkevt, hreg, hkcode, hrun, hfcode, hfpc, hfop, hfont,
    fun a ha hout => hzero a ha (by simp) hout⟩

end Sys2Proof.Machine
end

section
/-! PROOF. What a fetch reads, and what one byte written changes (20_memory.md R33 to R35; O5, O23). -/

namespace Sys2Proof

/-- A word by its two bytes, the high byte first (R35). -/
theorem wordOfBytes_toNat (hi lo : Byte) : (wordOfBytes hi lo).toNat = 256 * hi.toNat + lo.toNat := by
  rw [wordOfBytes, BitVec.toNat_append, ← Nat.shiftLeft_add_eq_or_of_lt lo.isLt, Nat.shiftLeft_eq]
  omega

end Sys2Proof

namespace Sys2Proof.Machine

variable {c : Config} {m : Memory} {a : Nat}

/-! EA, by the address policy (R33) -/

theorem ea_eq_some (h : c.addrPolicy = .mask ∨ a ≤ 0xFFF) : ea c a = some (wrapAddr a) := by
  rcases h with h | h <;> simp [ea, addrFaults, h]

theorem ea_eq_none (hf : c.addrPolicy = .fault) (ha : 0xFFF < a) : ea c a = none := by
  simp [ea, addrFaults, hf, ha]

/-! The fetch, by its two accesses (R35) -/

theorem State.fetch_eq_some {s : State} (hhi : s.cfg.addrPolicy = .mask ∨ s.pc.toNat ≤ 0xFFF)
    (hlo : s.cfg.addrPolicy = .mask ∨ (s.pc + 1).toNat ≤ 0xFFF) :
    s.fetch = some (wordOfBytes (s.memRead s.pc.toNat) (s.memRead (s.pc + 1).toNat)) := by
  simp only [State.fetch, ea_eq_some hhi, ea_eq_some hlo, State.memRead]

theorem State.fetch_eq_none {s : State} (hf : s.cfg.addrPolicy = .fault)
    (h : 0xFFF < s.pc.toNat ∨ 0xFFF < (s.pc + 1).toNat) : s.fetch = none := by
  unfold State.fetch
  rcases h with h | h <;> rw [ea_eq_none hf h]
  cases ea s.cfg s.pc.toNat <;> rfl

/-- Settles O5: both addresses of the fetch pass EA, or one of them faults; at PC = 0xFFFF the second address is
0 and the first one faults. -/
theorem fetchReadsTwoBytesBigEndian : Obligations.FetchReadsTwoBytesBigEndian := by
  intro s
  have hnext : (s.pc + 1).toNat = (s.pc.toNat + 1) % 65536 := by simp
  refine ⟨fun h => ⟨_, State.fetch_eq_some (h.imp_right ?_) (h.imp_right ?_), ?_⟩, fun ⟨hf, hpc⟩ => ?_⟩
  · omega
  · omega
  · rw [wordOfBytes_toNat, hnext]
  · exact State.fetch_eq_none hf (by have := s.pc.isLt; omega)

/-- Writing the byte already there leaves the list as it is: the form is canonical (O24). -/
theorem Memory.write_read_self (h : Memory.wf c m) (ha : a < 4096) :
    Memory.write c m a (Memory.read c m a) = m := by
  refine memoriesThatReadAlikeAreEqual c _ m (Memory.write_wf h ha _) h fun q _ => ?_
  rw [Memory.read_write h]
  split
  · next hq => rw [hq]
  · rfl

/-- Settles O23: the read after a write, and the write that changes nothing. -/
theorem byteWriteChangesExactlyOneByte : Obligations.ByteWriteChangesExactlyOneByte := by
  intro s a h
  refine ⟨fun b q => s.memRead_memWrite h a q b, ?_⟩
  have hmem : Memory.write s.cfg s.mem (wrapAddr a) (s.memRead a) = s.mem :=
    Memory.write_read_self h (wrapAddr_lt a)
  rw [State.memWrite, hmem]

end Sys2Proof.Machine
end

section
/-! PROOF. The block accesses Fx33, Fx55 and Fx65, and a fetch after a store (R36, R42, R103 to R105; O25, O44 to
O46). -/

namespace Sys2Proof

/-- Family F decodes by its low byte (R50). -/
theorem decode_famF (x : Nibble) (kk : Byte) : decode (0xF#4 ++ x ++ kk) = decodeFamF (0xF#4 ++ x ++ kk) := by
  obtain ⟨hfam, -, -⟩ := fields_xkk 0xF#4 x kk
  simp [decode, hfam]

theorem decode_ldB (x : Nibble) : decode (0xF#4 ++ x ++ 0x33#8) = .ok (.ldB x) := by
  obtain ⟨-, hx, hkk⟩ := fields_xkk 0xF#4 x 0x33#8
  simp [decode_famF, decodeFamF, hx, hkk]

theorem decode_stRegs (x : Nibble) : decode (0xF#4 ++ x ++ 0x55#8) = .ok (.stRegs x) := by
  obtain ⟨-, hx, hkk⟩ := fields_xkk 0xF#4 x 0x55#8
  simp [decode_famF, decodeFamF, hx, hkk]

theorem decode_ldRegs (x : Nibble) : decode (0xF#4 ++ x ++ 0x65#8) = .ok (.ldRegs x) := by
  obtain ⟨-, hx, hkk⟩ := fields_xkk 0xF#4 x 0x65#8
  simp [decode_famF, decodeFamF, hx, hkk]

end Sys2Proof

namespace Sys2Proof.Machine

variable (s : State) {a n : Nat}

/-- A block is safe under MASK, when it is empty, and when it ends below 0x1000 (R36). -/
theorem State.blockFaults_eq_false (h : s.cfg.addrPolicy = .mask ∨ n = 0 ∨ a + n ≤ 0x1000) :
    s.blockFaults a n = false := by
  rw [← Bool.not_eq_true, s.blockFaults_iff]
  rintro ⟨hf, hn, ha⟩
  rcases h with h | h | h
  · simp [h] at hf
  · omega
  · omega

theorem State.blockFaults_eq_true (hf : s.cfg.addrPolicy = .fault) (hn : n ≠ 0) (ha : 0x1000 < a + n) :
    s.blockFaults a n = true :=
  (s.blockFaults_iff a n).2 ⟨hf, by omega, by omega⟩

@[simp] theorem bcdDigits_length (v : Byte) : (bcdDigits v).length = 3 := rfl

/-- The three digits by their values (R103). -/
theorem bcdDigits_toNat (v : Byte) : (bcdDigits v)[0].toNat = v.toNat / 100 ∧
    (bcdDigits v)[1].toNat = v.toNat / 10 % 10 ∧ (bcdDigits v)[2].toNat = v.toNat % 10 := by
  have := v.isLt
  simp only [bcdDigits, List.getElem_cons_zero, List.getElem_cons_succ, BitVec.toNat_ofNat]
  omega

/-- Settles O44: the digits are read back inside the block, and the frame is that of O21. -/
theorem ldBStoresTheDigits : Obligations.LdBStoresTheDigits := by
  refine ⟨decode_ldB, fun s x hm => ⟨fun h => ?_, fun ⟨hf, hi⟩ => ?_⟩⟩
  · have hb : s.blockFaults s.i.toNat 3 = false := s.blockFaults_eq_false (h.imp_right fun hi => .inr (by omega))
    have hc : executeCause (.ldB x) s = .none := (executeCause_ldB_iff x).2 hb
    have he : exec (.ldB x) s = .next (s.writeBytes s.i.toNat (bcdDigits (s.getV x))) := execLdB_ok s x hb
    have hdigit (j : Nat) (hj : j < 3) :=
      congrArg BitVec.toNat (s.memRead_writeBytes_inside hm s.i.toNat j (bcdDigits (s.getV x)) (by simp) hj)
    obtain ⟨hhundreds, htens, hones⟩ := bcdDigits_toNat (s.getV x)
    exact ⟨_, he, exec_onlyChanges hc he, (hdigit 0 (by decide)).trans hhundreds, (hdigit 1 (by decide)).trans htens,
      (hdigit 2 (by decide)).trans hones, fun _ => exec_memRead_outside hm hc he⟩
  · exact ⟨_, execLdB_fault s x (s.blockFaults_eq_true hf (by decide) (by omega)), s.haltedBy_raise _ _⟩

/-- Settles O45: register `j` is byte `j` of the stored block, and the frame is that of O21. -/
theorem stRegsStoresTheBlock : Obligations.StRegsStoresTheBlock := by
  refine ⟨decode_stRegs, fun s x hm => ⟨fun h => ?_, fun ⟨hf, hi⟩ => ?_⟩⟩
  · have hb : s.blockFaults s.i.toNat (x.toNat + 1) = false :=
      s.blockFaults_eq_false (h.imp_right fun hi => .inr (by omega))
    have hc : executeCause (.stRegs x) s = .none := (executeCause_stRegs_iff x).2 hb
    have he : exec (.stRegs x) s = .next (s.writeBytes s.i.toNat (s.regBlock x)) := execStRegs_ok s x hb
    refine ⟨_, he, exec_onlyChanges hc he, fun j hj => ?_, fun _ ha => exec_memRead_outside hm hc he fun j hj => ?_⟩
    · have hlen : (s.regBlock x).length = x.toNat + 1 := s.regBlock_length x
      have hx := x.isLt
      rw [s.memRead_writeBytes_inside hm _ _ _ (by omega) (by omega), s.regBlock_getElem, BitVec.ofNat_toNat,
        BitVec.setWidth_eq]
    · exact ha j (Nat.le_of_lt_succ hj)
  · exact ⟨_, execStRegs_fault s x (s.blockFaults_eq_true hf (by omega) (by omega)), s.haltedBy_raise _ _⟩

/-- Settles O46: the registers after the block load, and the frame of O21. -/
theorem ldRegsLoadsTheBlock : Obligations.LdRegsLoadsTheBlock := by
  refine ⟨decode_ldRegs, fun s x => ⟨fun h => ?_, fun ⟨hf, hi⟩ => ?_⟩⟩
  · have hb : s.blockFaults s.i.toNat (x.toNat + 1) = false :=
      s.blockFaults_eq_false (h.imp_right fun hi => .inr (by omega))
    have he : exec (.ldRegs x) s = .next (s.loadBlock x s.i.toNat) := execLdRegs_ok s x hb
    exact ⟨_, he, exec_onlyChanges ((executeCause_ldRegs_iff x).2 hb) he, fun r => s.getV_loadBlock x r _⟩
  · exact ⟨_, execLdRegs_fault s x (s.blockFaults_eq_true hf (by omega) (by omega)), s.haltedBy_raise _ _⟩

/-- Settles O25: Fx33 stores its first two digits at PC and PC + 1 (O44), and the fetch reads these two bytes
(O5). -/
theorem storedBytesAreSeenByTheNextFetch : Obligations.StoredBytesAreSeenByTheNextFetch := by
  intro s x hm hi hpc
  obtain ⟨-, hldB⟩ := ldBStoresTheDigits
  obtain ⟨hstore, -⟩ := hldB s x hm
  obtain ⟨t, he, hframe, hhundreds, htens, -⟩ := hstore (.inr (by rw [hi]; omega))
  have htpc : t.pc = s.pc := hframe .pc (by decide)
  obtain ⟨hfetch, -⟩ := fetchReadsTwoBytesBigEndian t
  obtain ⟨op, hop, hword⟩ := hfetch (.inr (by rw [htpc]; omega))
  rw [htpc, Nat.mod_eq_of_lt (by omega), ← hi, hhundreds, htens] at hword
  exact ⟨t, op, he, hop, hword⟩

end Sys2Proof.Machine
end

section
/-! PROOF. The sprite draw Dxyn (43_display.md R113; O48). -/

namespace Sys2Proof

theorem decode_drw (x y n : Nibble) : decode (0xD#4 ++ x ++ y ++ n) = .ok (.drw x y n) := by
  obtain ⟨hfam, hx, hy, hn⟩ := fields_xyn 0xD#4 x y n
  simp [decode, hfam, hx, hy, hn]

end Sys2Proof

namespace Sys2Proof.Machine

variable {s t : State} {x y n : Nibble}

/-- A draw inverts the pixels of the sprite (R113). -/
theorem exec_drw_pixel (hc : executeCause (.drw x y n) s = .none) (he : exec (.drw x y n) s = .next t)
    (py : Fin 32) (px : Fin 64) :
    t.pixel py px = (s.pixel py px ^^ decide ((py, px) ∈ s.drawPixels x y n)) := by
  cases (execDrw_ok s x y n ((executeCause_drw_iff x y n).1 hc)).symm.trans he
  exact (foldl_xorPixel _ (s.drawPixels_nodup x y n) _).1 py px

/-- The collision of a draw, by the pixels of the sprite (R113). -/
theorem State.any_drawPixels (s : State) : ((s.drawPixels x y n).any fun p => s.pixel p.1 p.2) = true ↔
    ∃ py px, s.toggles x y n py px ∧ s.pixel py px = true := by
  simp only [List.any_eq_true, Prod.exists, State.mem_drawPixels]

/-- A draw leaves the collision in VF (R113). -/
theorem exec_drw_vf (hc : executeCause (.drw x y n) s = .none) (he : exec (.drw x y n) s = .next t) :
    t.getV vf = flagByte ((s.drawPixels x y n).any fun p => s.pixel p.1 p.2) := by
  cases (execDrw_ok s x y n ((executeCause_drw_iff x y n).1 hc)).symm.trans he
  rw [State.getV_setV, if_pos rfl, (foldl_xorPixel _ (s.drawPixels_nodup x y n) _).2, Bool.false_or]
  rfl

/-- Settles O48: the toggled pixels are those of the sprite, and VF tells whether one of them was on. -/
theorem drwXorsTheSprite : Obligations.DrwXorsTheSprite := by
  refine ⟨decode_drw, fun s x y n => ⟨fun h => ?_, fun ⟨hf, hn, hi⟩ => ?_⟩⟩
  · have hn : n = 0 → n.toNat = 0 := fun e => by rw [e]; rfl
    have hb : s.blockFaults s.i.toNat n.toNat = false := s.blockFaults_eq_false (h.imp_right (.imp_left hn))
    have hc : executeCause (.drw x y n) s = .none := (executeCause_drw_iff x y n).2 hb
    obtain ⟨t, he⟩ : ∃ t, exec (.drw x y n) s = .next t := ⟨_, execDrw_ok s x y n hb⟩
    have hpixel := exec_drw_pixel hc he
    have hvf : t.getV 0xF#4 = _ := exec_drw_vf hc he
    refine ⟨t, he, ?_, fun py px ht => ?_, fun py px ht => ?_, fun r hr => exec_getV_of_not_writesV hc he hr, ?_, ?_⟩
    · exact fun p hp => exec_onlyChanges hc he p (by simpa [writesParts, or_comm] using hp)
    · rw [hpixel, decide_eq_true ((s.mem_drawPixels x y n py px).2 ht), Bool.xor_true]
    · rw [hpixel, decide_eq_false (mt (s.mem_drawPixels x y n py px).1 ht), Bool.xor_false]
    · intro hcollision
      rw [hvf, s.any_drawPixels.2 hcollision]; rfl
    · intro hoff
      have hnone : ¬ ∃ py px, s.toggles x y n py px ∧ s.pixel py px = true :=
        fun ⟨py, px, ht, hon⟩ => by simp [hoff py px ht] at hon
      rw [hvf, Bool.eq_false_iff.2 (mt s.any_drawPixels.1 hnone)]; rfl
  · have hn0 : n.toNat ≠ 0 := fun e => hn (BitVec.eq_of_toNat_eq e)
    exact ⟨_, execDrw_fault s x y n (s.blockFaults_eq_true hf hn0 hi), s.haltedBy_raise _ _⟩

end Sys2Proof.Machine
end

section
/-! PROOF. Decode and encode are inverse, and decode accepts the words of R52's table (30_encoding.md R47, R49 to R55;
O1 to O4). -/

namespace Sys2Proof

variable {op : Word} {i : Instr}

/-- The word of every instruction decodes to it, format by format (R47, R50). -/
theorem decode_encode (i : Instr) : decode (encode i) = .ok i := by
  cases i with
  | cls | ret => rfl
  | jp nnn | call nnn | ldI nnn | jpV0 nnn => simp [encode, decode, fields_nnn]
  | seImm x kk | sneImm x kk | ldImm x kk | addImm x kk | rnd x kk => simp [encode, decode, fields_xkk]
  | seReg x y | sneReg x y => simp [encode, decode, decodeLow0, fields_xyn]
  | ldReg x y | orReg x y | andReg x y | xorReg x y | addReg x y | subReg x y | shr x y | subnReg x y | shl x y =>
    simp [encode, decode, decodeFam8, fields_xyn]
  | drw x y n => exact decode_drw x y n
  | skp x | sknp x => simp [encode, decode, decodeFamE, fields_xkk]
  | ldVxDt x | ldVxK x | ldDtVx x | ldStVx x | addI x | ldF x | ldB x | stRegs x | ldRegs x =>
    simp [encode, decode_famF, decodeFamF, fields_xkk]

/-- Settles O1: the fields of the assembled word are the operands. -/
theorem encodedInstructionDecodesBack : Obligations.EncodedInstructionDecodesBack := decode_encode

/-! The word of what each family's decoder answers (R50): the sub-opcode that it matched is a fixed field -/

theorem encode_of_decodeFam0 (h : decodeFam0 op = .ok i) : encode i = op := by
  unfold decodeFam0 at h
  split at h
  · next hop => cases h; exact hop.symm
  · split at h
    · next hop => cases h; exact hop.symm
    · cases h

theorem decodeLow0_eq_ok {f : Nibble → Nibble → Instr} (h : decodeLow0 f op = .ok i) :
    i = f (opX op) (opY op) ∧ opN op = 0x0#4 := by
  unfold decodeLow0 at h
  split at h
  · next hn => cases h; exact ⟨rfl, hn⟩
  · cases h

theorem encode_of_decodeFam8 (hfam : opFam op = 0x8#4) (h : decodeFam8 op = .ok i) : encode i = op := by
  unfold decodeFam8 at h
  split at h <;> cases h
  all_goals next hn => rw [encode, ← hfam, ← hn, word_xyn]

theorem encode_of_decodeFamE (hfam : opFam op = 0xE#4) (h : decodeFamE op = .ok i) : encode i = op := by
  unfold decodeFamE at h
  split at h <;> cases h
  all_goals next hkk => rw [encode, ← hfam, ← hkk, word_xkk]

theorem encode_of_decodeFamF (hfam : opFam op = 0xF#4) (h : decodeFamF op = .ok i) : encode i = op := by
  unfold decodeFamF at h
  split at h <;> cases h
  all_goals next hkk => rw [encode, ← hfam, ← hkk, word_xkk]

/-- A word that decodes is the word of its instruction: the fields of its format are the whole word (R46, R49). The
cases are the arms of `decode`, in its order. -/
theorem encode_of_decode (h : decode op = .ok i) : encode i = op := by
  unfold decode at h
  split at h
  next => exact encode_of_decodeFam0 h
  next hfam => cases h; rw [encode, ← hfam, word_nnn]
  next hfam => cases h; rw [encode, ← hfam, word_nnn]
  next hfam => cases h; rw [encode, ← hfam, word_xkk]
  next hfam => cases h; rw [encode, ← hfam, word_xkk]
  next hfam => obtain ⟨rfl, hn⟩ := decodeLow0_eq_ok h; rw [encode, ← hfam, ← hn, word_xyn]
  next hfam => cases h; rw [encode, ← hfam, word_xkk]
  next hfam => cases h; rw [encode, ← hfam, word_xkk]
  next hfam => exact encode_of_decodeFam8 hfam h
  next hfam => obtain ⟨rfl, hn⟩ := decodeLow0_eq_ok h; rw [encode, ← hfam, ← hn, word_xyn]
  next hfam => cases h; rw [encode, ← hfam, word_nnn]
  next hfam => cases h; rw [encode, ← hfam, word_nnn]
  next hfam => cases h; rw [encode, ← hfam, word_xkk]
  next hfam => cases h; rw [encode, ← hfam, word_xyn]
  next hfam => exact encode_of_decodeFamE hfam h
  next =>
    have hfam : opFam op = 0xF#4 := by simp only [imp_false] at *; bv_omega
    exact encode_of_decodeFamF hfam h

/-- Settles O2, by the arms of `decode`. -/
theorem decodedWordEncodesBack : Obligations.DecodedWordEncodesBack := fun _ _ => encode_of_decode

/-! The nibbles of a numeral, to read off the rows of the table -/

@[simp] theorem opFam_ofNat (n : Nat) : opFam (BitVec.ofNat 16 n) = BitVec.ofNat 4 (n / 2 ^ 12) := by
  apply BitVec.eq_of_toNat_eq
  simp only [opFam, BitVec.extractLsb'_toNat, BitVec.toNat_ofNat, Nat.shiftRight_eq_div_pow]
  omega

@[simp] theorem opX_ofNat (n : Nat) : opX (BitVec.ofNat 16 n) = BitVec.ofNat 4 (n / 2 ^ 8) := by
  apply BitVec.eq_of_toNat_eq
  simp only [opX, BitVec.extractLsb'_toNat, BitVec.toNat_ofNat, Nat.shiftRight_eq_div_pow]
  omega

@[simp] theorem opY_ofNat (n : Nat) : opY (BitVec.ofNat 16 n) = BitVec.ofNat 4 (n / 2 ^ 4) := by
  apply BitVec.eq_of_toNat_eq
  simp only [opY, BitVec.extractLsb'_toNat, BitVec.toNat_ofNat, Nat.shiftRight_eq_div_pow]
  omega

@[simp] theorem opN_ofNat (n : Nat) : opN (BitVec.ofNat 16 n) = BitVec.ofNat 4 n := by
  apply BitVec.eq_of_toNat_eq
  simp only [opN, BitVec.extractLsb'_toNat, BitVec.toNat_ofNat, Nat.shiftRight_eq_div_pow]
  omega

/-- A nibble of the mask that tests every bit. -/
@[simp] theorem nibble_and_0xF (a : Nibble) : a &&& 0xF#4 = a := BitVec.and_allOnes

/-! The table and the decoder, row by row -/

/-- The rows of the table are those of the 34 instructions, whatever their operands. -/
theorem opcodeRows_eq_map_row : opcodeRows =
    [.cls, .ret, .jp 0, .call 0, .seImm 0 0, .sneImm 0 0, .seReg 0 0, .ldImm 0 0, .addImm 0 0, .ldReg 0 0, .orReg 0 0,
      .andReg 0 0, .xorReg 0 0, .addReg 0 0, .subReg 0 0, .shr 0 0, .subnReg 0 0, .shl 0 0, .sneReg 0 0, .ldI 0,
      .jpV0 0, .rnd 0 0, .drw 0 0 0, .skp 0, .sknp 0, .ldVxDt 0, .ldVxK 0, .ldDtVx 0, .ldStVx 0, .addI 0, .ldF 0,
      .ldB 0, .stRegs 0, .ldRegs 0].map Instr.row := rfl

/-- A word covered by an instruction's row decodes: the row fixes the family and, where the family has one, the
sub-opcode (R50, R52). -/
theorem decodes_of_row_covers (h : i.row.covers op = true) : ∃ j, decode op = .ok j := by
  cases i with
  | cls | ret =>
    have hop : op &&& 0xFFFF = _ := beq_iff_eq.1 h
    rw [show op &&& 0xFFFF = op from BitVec.and_allOnes] at hop
    subst hop
    exact ⟨_, rfl⟩
  | jp | call | seImm | sneImm | ldImm | addImm | ldI | jpV0 | rnd | drw =>
    simp [Instr.row, OpcodeRow.covers_iff] at h
    simp [decode, h]
  | seReg | sneReg =>
    simp [Instr.row, OpcodeRow.covers_iff] at h
    simp [decode, decodeLow0, h]
  | ldReg | orReg | andReg | xorReg | addReg | subReg | shr | subnReg | shl =>
    simp [Instr.row, OpcodeRow.covers_iff] at h
    simp [decode, decodeFam8, h]
  | skp | sknp =>
    simp [Instr.row, OpcodeRow.covers_iff] at h
    simp [decode, decodeFamE, opKk_eq, h]
  | ldVxDt | ldVxK | ldDtVx | ldStVx | addI | ldF | ldB | stRegs | ldRegs =>
    simp [Instr.row, OpcodeRow.covers_iff] at h
    simp [decode, decodeFamF, opKk_eq, h]

/-- The word of every instruction is covered by its row (R52). -/
theorem row_covers_encode : ∀ i : Instr, i.row.covers (encode i) = true
  | .cls => Laws.RowMatch.cls
  | .ret => Laws.RowMatch.ret
  | .jp nnn => Laws.RowMatch.jp nnn
  | .call nnn => Laws.RowMatch.call nnn
  | .seImm x kk => Laws.RowMatch.seImm x kk
  | .sneImm x kk => Laws.RowMatch.sneImm x kk
  | .seReg x y => Laws.RowMatch.seReg x y
  | .ldImm x kk => Laws.RowMatch.ldImm x kk
  | .addImm x kk => Laws.RowMatch.addImm x kk
  | .ldReg x y => Laws.RowMatch.ldReg x y
  | .orReg x y => Laws.RowMatch.orReg x y
  | .andReg x y => Laws.RowMatch.andReg x y
  | .xorReg x y => Laws.RowMatch.xorReg x y
  | .addReg x y => Laws.RowMatch.addReg x y
  | .subReg x y => Laws.RowMatch.subReg x y
  | .shr x y => Laws.RowMatch.shr x y
  | .subnReg x y => Laws.RowMatch.subnReg x y
  | .shl x y => Laws.RowMatch.shl x y
  | .sneReg x y => Laws.RowMatch.sneReg x y
  | .ldI nnn => Laws.RowMatch.ldI nnn
  | .jpV0 nnn => Laws.RowMatch.jpV0 nnn
  | .rnd x kk => Laws.RowMatch.rnd x kk
  | .drw x y n => Laws.RowMatch.drw x y n
  | .skp x => Laws.RowMatch.skp x
  | .sknp x => Laws.RowMatch.sknp x
  | .ldVxDt x => Laws.RowMatch.ldVxDt x
  | .ldVxK x => Laws.RowMatch.ldVxK x
  | .ldDtVx x => Laws.RowMatch.ldDtVx x
  | .ldStVx x => Laws.RowMatch.ldStVx x
  | .addI x => Laws.RowMatch.addI x
  | .ldF x => Laws.RowMatch.ldF x
  | .ldB x => Laws.RowMatch.ldB x
  | .stRegs x => Laws.RowMatch.stRegs x
  | .ldRegs x => Laws.RowMatch.ldRegs x

/-- The words of the table are the words that decode. -/
theorem wellFormedWord_iff_decodes : wellFormedWord op = true ↔ ∃ i, decode op = .ok i := by
  rw [wellFormedWord, List.any_eq_true]
  constructor
  · rintro ⟨r, hr, hcovers⟩
    rw [opcodeRows_eq_map_row] at hr
    obtain ⟨i, -, rfl⟩ := List.mem_map.1 hr
    exact decodes_of_row_covers hcovers
  · rintro ⟨i, hi⟩
    exact ⟨i.row, i.row_mem, encode_of_decode hi ▸ row_covers_encode i⟩

theorem decode_of_not_wellFormedWord (h : wellFormedWord op = false) : decode op = .error (.unknown op) := by
  cases hd : decode op with
  | ok i => simp [wellFormedWord_iff_decodes.2 ⟨i, hd⟩] at h
  | error e => rw [decode_error hd]

/-- Settles O3: a row covers exactly the words that decode, and the one error is Unknown with the word. -/
theorem decodeAcceptsExactlyTheTable : Obligations.DecodeAcceptsExactlyTheTable :=
  fun _ => ⟨wellFormedWord_iff_decodes.1, decode_of_not_wellFormedWord⟩

/-- Settles O4, by evaluation of the eleven words. -/
theorem specExampleWordsDecode : Obligations.SpecExampleWordsDecode := by
  unfold Obligations.SpecExampleWordsDecode
  decide

end Sys2Proof
end

section
/-! PROOF. The Step operation: a fetched word, a resumption, a fault (30_encoding.md R56 to R58, 44_input.md R125,
60_exceptions.md R146, R148; O6, O7, O11, O55). -/

namespace Sys2Proof.Machine

variable {s t : State} {op : Word} {i : Instr} {p : Part}

/-! A Step outside a wait, by the word at PC (R57, R58) -/

theorem dispatchWord_ok (hd : decode op = .ok i) (s : State) : dispatchWord op s = exec i s := by
  simp only [dispatchWord, hd]

theorem dispatchWord_error {e : DecodeError} (hd : decode op = .error e) (s : State) :
    dispatchWord op s = .next (s.takeFault .unknownOpcode (s.pc - 2) op) := by
  simp only [dispatchWord, hd]

theorem coreStep_not_waiting (hr : s.run = .running) (hw : s.wait = false) : coreStep s = cycle s := by
  simp [coreStep_running hr, hw]

theorem coreStep_waiting (hr : s.run = .running) (hw : s.wait = true) : coreStep s = .next (resumeWait s) := by
  simp [coreStep_running hr, hw]

theorem coreStep_fetched (hr : s.run = .running) (hw : s.wait = false) (hf : s.fetch = some op) :
    coreStep s = dispatchWord op s.advance := by
  simp only [coreStep_not_waiting hr hw, cycle, hf]

theorem State.Fetches.step_eq (h : s.Fetches op) : step s = dispatchWord op s.advance := by
  obtain ⟨hr, hw, hs, hf⟩ := h
  rw [step_nil hs, coreStep_fetched hr hw hf]

/-- Settles O6: a Step of either form dispatches the word fetched; neither the schedule nor `rnd` moves the fetch. -/
theorem stepRunsTheDecodedInstruction : Obligations.StepRunsTheDecodedInstruction := by
  constructor
  · intro s op i h hd
    rw [h.step_eq, dispatchWord_ok hd]
    rfl
  · intro s op i r rest hr hw hs hf hd
    have hstep : coreStep ((s.setSchedule rest).setRndArg (some r)) =
        exec i ((s.setSchedule rest).setRndArg (some r)).advance :=
      (coreStep_fetched (s := (s.setSchedule rest).setRndArg (some r)) hr hw hf).trans (dispatchWord_ok hd _)
    rw [step_cons hs, perform, hstep]
    rfl

/-! Updates that move one part only -/

@[simp] theorem Part.unmoved_advance (hp : p ≠ .pc) : p.Unmoved s t.advance ↔ p.Unmoved s t :=
  Part.unmoved_setPc hp _

@[simp] theorem Part.unmoved_takeFault (hp : p ≠ .faults) (c : FaultCode) (a op : Word) :
    p.Unmoved s (t.takeFault c a op) ↔ p.Unmoved s t := by
  cases p <;> simp_all [Part.Unmoved]

@[simp] theorem Part.unmoved_leaveWait (hpc : p ≠ .pc) (hwait : p ≠ .waiting) :
    p.Unmoved s t.leaveWait ↔ p.Unmoved s t := by
  cases p <;> simp_all [Part.Unmoved]

/-- A fault after the advance of PC writes PC and the fault registers (R146). -/
theorem onlyChanges_advance_takeFault (s : State) (c : FaultCode) (a op : Word) :
    OnlyChanges [.faults, .pc] s (s.advance.takeFault c a op) :=
  fun _ hp => Part.Unmoved.same (by simp_all)

/-- Settles O7: the word does not decode (O3), and the fault is taken after the advance of PC. -/
theorem unknownWordHaltsWithItsAddress : Obligations.UnknownWordHaltsWithItsAddress := by
  intro s op h hwf
  have hstep : step s = .next (s.advance.takeFault .unknownOpcode (s.advance.pc - 2) op) := by
    rw [h.step_eq, dispatchWord_error (decode_of_not_wellFormedWord hwf)]
  exact ⟨_, hstep, rfl, rfl, rfl, by simp, rfl, onlyChanges_advance_takeFault s _ _ _⟩

/-! Faults (R146, R148) -/

theorem resumeWait_run (s : State) : (resumeWait s).run = s.run := by
  unfold resumeWait
  split <;> simp

theorem stepReply_halted (h : t.run = .halted) : stepReply t = .fault t.fcode t.fpc t.fop := by
  simp only [stepReply, h]

/-- A cycle that halts a running CORE has taken the fault of R148: before the advance of PC when the fetch faulted,
else after it, with the word fetched as the opcode, since a decoded word is its instruction's word (O2). -/
theorem cycle_halted (hr : s.run = .running) (he : cycle s = .next t) (ht : t.run = .halted) :
    (s.fetch = none ∧ t = s.takeFault (cycleCause s) s.pc 0) ∨
    ∃ op, s.fetch = some op ∧ t = s.advance.takeFault (cycleCause s) s.pc op := by
  rcases cycle_effect s with ⟨-, u, op, hc, hu⟩ | ⟨-, u, hc, hrun, -⟩ <;> cases hc.symm.trans he
  · rcases hu with ⟨hf, rfl, rfl⟩ | ⟨hf, rfl⟩ | ⟨i, w, hf, hd, rfl, rfl⟩
    · exact .inl ⟨hf, rfl⟩
    · exact .inr ⟨op, hf, rfl⟩
    · exact .inr ⟨_, encode_of_decode hd ▸ hf, rfl⟩
  · simp [hrun, hr] at ht

/-- Settles O11: a resumption does not halt CORE, and a cycle that does has taken one fault and nothing else. -/
theorem faultsArePrecise : Obligations.FaultsArePrecise := by
  intro s t hr hs he ht
  rw [step_nil hs] at he
  cases hw : s.wait with
  | true =>
    cases (coreStep_waiting hr hw).symm.trans he
    simp [resumeWait_run, hr] at ht
  | false =>
    rw [coreStep_not_waiting hr hw] at he
    rcases cycle_halted hr he ht with ⟨hf, rfl⟩ | ⟨op, hf, rfl⟩
    · exact ⟨rfl, rfl, fun _ hp => Part.Unmoved.same (by simp_all), fun _ => stepReply_halted ht,
        .inl ⟨hf, rfl, rfl⟩⟩
    · exact ⟨rfl, rfl, onlyChanges_advance_takeFault s _ _ _, fun _ => stepReply_halted ht, .inr ⟨hf, rfl⟩⟩

/-! The resumption of a key wait (R125) -/

theorem resumeWait_idle (h : s.kevt = false) : resumeWait s = s := by simp [resumeWait, h]

theorem resumeWait_latched (h : s.kevt = true) :
    resumeWait s = (s.setV s.waitReg (s.kcode.setWidth 8)).leaveWait := by simp [resumeWait, h]

/-- Settles O55: the two ways of a resumption, by KEVT. -/
theorem resumptionNeedsALatchedPress : Obligations.ResumptionNeedsALatchedPress := by
  intro s hr hw hs
  have hstep : step s = .next (resumeWait s) := (step_nil hs).trans (coreStep_waiting hr hw)
  refine ⟨fun hk => by rw [hstep, resumeWait_idle hk], fun hk => ?_⟩
  rw [resumeWait_latched hk] at hstep
  refine ⟨_, hstep, fun p hp => Part.Unmoved.same (by simp_all), fun r => ?_, by simp, rfl, rfl, rfl, rfl⟩
  rw [State.leaveWait_getV, State.getV_setV, apply_ite BitVec.toNat, BitVec.toNat_setWidth_of_le (by decide)]

end Sys2Proof.Machine
end

section
/-! PROOF. The random byte of a Step is for Cxkk alone (30_encoding.md R58, 46_random.md R138; O10). -/

namespace Sys2Proof.Machine

variable {i : Instr} (s : State) (r : Option Byte)

theorem State.setRndArg_skipIf (c : Bool) : (s.setRndArg r).skipIf c = (s.skipIf c).setRndArg r := by
  cases c <;> rfl

theorem State.setRndArg_writeBytes (a : Nat) (bs : List Byte) :
    (s.setRndArg r).writeBytes a bs = (s.writeBytes a bs).setRndArg r := by
  induction bs generalizing s a with
  | nil => rfl
  | cons b bs ih => exact ih (s.memWrite a b) (a + 1)

/-- No execute-stage fault depends on the argument (R36, R66, R67). -/
theorem executeCause_setRndArg (i : Instr) : executeCause i (s.setRndArg r) = executeCause i s := by
  cases i <;> rfl

theorem exec_of_executeCause (h : executeCause i s ≠ .none) : exec i s = .next (s.raise (executeCause i s) i) := by
  rcases exec_cases i s with ⟨-, he⟩ | ⟨hc, -⟩
  · exact he
  · exact absurd hc h

variable {s r}

theorem exec_setRndArg_of_next {t : State} (he : exec i s = .next t)
    (he' : exec i (s.setRndArg r) = .next (t.setRndArg r)) :
    exec i (s.setRndArg r) = mapNext (fun u => u.setRndArg r) (exec i s) := by
  rw [he, he', mapNext]

/-- Without a fault: each update that an instruction other than Cxkk makes commutes with setting the argument. -/
theorem exec_setRndArg_of_no_fault (hi : ∀ x kk, i ≠ .rnd x kk) (hc : executeCause i s = .none) :
    exec i (s.setRndArg r) = mapNext (fun u => u.setRndArg r) (exec i s) := by
  cases i with
  | rnd x kk => exact absurd rfl (hi x kk)
  | ret =>
    have hsp := executeCause_ret_iff.1 hc
    exact exec_setRndArg_of_next (execRet_pop s hsp) (execRet_pop (s.setRndArg r) hsp)
  | call nnn =>
    have hsp := (executeCause_call_iff nnn).1 hc
    exact exec_setRndArg_of_next (execCall_push s nnn hsp) (execCall_push (s.setRndArg r) nnn hsp)
  | drw x y n =>
    have hb := (executeCause_drw_iff x y n).1 hc
    exact exec_setRndArg_of_next (execDrw_ok s x y n hb) (execDrw_ok (s.setRndArg r) x y n hb)
  | ldB x =>
    have hb := (executeCause_ldB_iff x).1 hc
    refine exec_setRndArg_of_next (execLdB_ok s x hb) ?_
    rw [← State.setRndArg_writeBytes]
    exact execLdB_ok (s.setRndArg r) x hb
  | stRegs x =>
    have hb := (executeCause_stRegs_iff x).1 hc
    refine exec_setRndArg_of_next (execStRegs_ok s x hb) ?_
    rw [← State.setRndArg_writeBytes]
    exact execStRegs_ok (s.setRndArg r) x hb
  | ldRegs x =>
    have hb := (executeCause_ldRegs_iff x).1 hc
    exact exec_setRndArg_of_next (execLdRegs_ok s x hb) (execLdRegs_ok (s.setRndArg r) x hb)
  | addI x =>
    cases hq : s.cfg.quirkAddIVf with
    | true => exact exec_setRndArg_of_next (execAddI_quirk s x hq) (execAddI_quirk (s.setRndArg r) x hq)
    | false => exact exec_setRndArg_of_next (execAddI_plain s x hq) (execAddI_plain (s.setRndArg r) x hq)
  | seImm | sneImm | seReg | sneReg | skp | sknp => exact congrArg Host.Outcome.next (s.setRndArg_skipIf r _)
  | _ => rfl

/-- Settles O10: the fault of an instruction, and its effect without one, are the same for every argument. -/
theorem onlyRndReadsTheRandomByte : Obligations.OnlyRndReadsTheRandomByte := by
  intro i s r hi
  by_cases hc : executeCause i s = .none
  · exact exec_setRndArg_of_no_fault hi hc
  · have hc' : executeCause i (s.setRndArg r) ≠ .none := by rwa [executeCause_setRndArg]
    refine exec_setRndArg_of_next (exec_of_executeCause s hc) ?_
    rw [exec_of_executeCause _ hc', executeCause_setRndArg]
    rfl

end Sys2Proof.Machine
end

section
/-! PROOF. Before the first successful Reset (60_exceptions.md, 70_reset_and_hazards.md R166; O14). -/

namespace Sys2Proof.Machine

variable {s : State}

theorem State.setRndArg_none (h : s.env.rndArg = none) (r : Option Byte) : (s.setRndArg r).setRndArg none = s := by
  rw [← h]
  rfl

theorem resetOp_of_overlong {rom : List Byte} (h : ¬ rom.length ≤ 3584) : resetOp rom s = s :=
  if_neg (mt (romFits_iff rom).1 h)

/-- R166: every operation but Reset leaves an UNLOADED CORE as it is and is refused. -/
theorem perform_unloaded (hr : s.run = .unloaded) (hrnd : s.env.rndArg = none) (o : Op)
    (ho : ∀ rom, o ≠ .reset rom) : perform o s = .next s ∧ reply o s s = .refused := by
  cases o with
  | reset rom => exact absurd rfl (ho rom)
  | step r =>
    have hstep : coreStep (s.setRndArg (some r)) = .next (s.setRndArg (some r)) := coreStep_unloaded hr
    simp [perform, hstep, mapNext, State.setRndArg_none hrnd, reply, stepReply, hr]
  | tick => simp [perform, tick, reply, hr]
  | keyPress k => simp [perform, keyPress, reply, hr]
  | keyRelease k => simp [perform, keyRelease, reply, hr]

/-- Settles O14: an operation that leaves UNLOADED is a Reset by the first part, and an overlong ROM changes nothing. -/
theorem unloadedRefusesAllButReset : Obligations.UnloadedRefusesAllButReset := by
  intro s hr hrnd
  refine ⟨perform_unloaded hr hrnd, fun o t he ht => ?_⟩
  by_cases ho : ∃ rom, o = .reset rom
  · obtain ⟨rom, rfl⟩ := ho
    refine ⟨rom, rfl, ?_⟩
    by_contra hlen
    cases he
    rw [resetOp_of_overlong hlen] at ht
    exact ht hr
  · obtain ⟨hsame, -⟩ := perform_unloaded hr hrnd o (not_exists.1 ho)
    cases hsame.symm.trans he
    exact absurd hr ht

end Sys2Proof.Machine
end

section
/-! PROOF. The jumps, the call and the conditional skips, and the parked state (40_control_flow.md R65, R66, R68 to
R72, 70_reset_and_hazards.md R173; O26, O27, O30 to O33). -/

namespace Sys2Proof

variable (x y n : Nibble)

/-- Families 5 and 9, field by field (R50). -/
theorem decodeLow0_xyn (f : Nibble → Nibble → Instr) (fam : Nibble) :
    decodeLow0 f (fam ++ x ++ y ++ n) =
      if n = 0 then .ok (f x y) else .error (.unknown (fam ++ x ++ y ++ n)) := by
  obtain ⟨-, hx, hy, hn⟩ := fields_xyn fam x y n
  rw [decodeLow0, hx, hy, hn]

theorem decode_fam5 : decode (0x5#4 ++ x ++ y ++ n) = decodeLow0 .seReg (0x5#4 ++ x ++ y ++ n) := by
  obtain ⟨hfam, -⟩ := fields_xyn 0x5#4 x y n
  simp [decode, hfam]

theorem decode_fam9 : decode (0x9#4 ++ x ++ y ++ n) = decodeLow0 .sneReg (0x9#4 ++ x ++ y ++ n) := by
  obtain ⟨hfam, -⟩ := fields_xyn 0x9#4 x y n
  simp [decode, hfam]

end Sys2Proof

namespace Sys2Proof.Machine

variable {s : State} {i : Instr}

@[simp] theorem zext16_toNat (nnn : Addr12) : (zext16 nnn).toNat = nnn.toNat :=
  BitVec.toNat_setWidth_of_le (by decide)

@[simp] theorem State.getV16_toNat (s : State) (x : Nibble) : (s.getV16 x).toNat = (s.getV x).toNat :=
  BitVec.toNat_setWidth_of_le (by decide)

/-! Jumps and the call -/

/-- Settles O26: JP writes PC, with the address of its word. -/
theorem jpSetsPc : Obligations.JpSetsPc :=
  ⟨fun nnn => decode_encode (.jp nnn), fun _ nnn => ⟨_, rfl, exec_onlyChanges (i := .jp nnn) rfl rfl, zext16_toNat nnn⟩⟩

/-- Settles O30: the sum of the two operands in 16 bits. -/
theorem jpV0AddsV0 : Obligations.JpV0AddsV0 := by
  refine ⟨fun nnn => decode_encode (.jpV0 nnn), fun s nnn => ⟨_, rfl, exec_onlyChanges (i := .jpV0 nnn) rfl rfl, ?_⟩⟩
  rw [State.setPc_pc, BitVec.toNat_add, zext16_toNat, State.getV16_toNat]

/-- Settles O27: the two ways of CALL, by SP. -/
theorem callPushesOrOverflows : Obligations.CallPushesOrOverflows := by
  refine ⟨fun nnn => decode_encode (.call nnn), fun s nnn => ⟨fun hsp => ?_, fun hfull => ?_⟩⟩
  · have he : exec (.call nnn) s = .next ((s.push s.pc hsp).setPc (zext16 nnn)) := execCall_push s nnn hsp
    refine ⟨_, he, exec_onlyChanges ((executeCause_call_iff nnn).2 hsp) he, zext16_toNat nnn, rfl, fun j => ?_⟩
    simp [Vector.getElem_set, eq_comm]
  · exact ⟨_, execCall_full s nnn (Fin.ext hfull), s.haltedBy_raise _ _⟩

/-! The conditional skips -/

/-- An instruction that is a conditional skip moves PC alone, by 2 when its condition holds (R69). -/
theorem exec_skipIf {c : Bool} (he : exec i s = .next (s.skipIf c)) :
    ∃ t, exec i s = .next t ∧ OnlyChanges [.pc] s t ∧
      t.pc.toNat = if c then (s.pc.toNat + 2) % 65536 else s.pc.toNat := by
  refine ⟨_, he, fun p hp => Part.Unmoved.same (by simp_all), ?_⟩
  cases c <;> simp

/-- The skips on equality (3xkk, 5xy0). -/
theorem exec_skip_eq {a b : Byte} (he : exec i s = .next (s.skipIf (a = b))) :
    ∃ t, exec i s = .next t ∧ OnlyChanges [.pc] s t ∧
      t.pc.toNat = if a = b then (s.pc.toNat + 2) % 65536 else s.pc.toNat := by
  simpa only [decide_eq_true_eq] using exec_skipIf he

/-- The skips on difference (4xkk, 9xy0). -/
theorem exec_skip_ne {a b : Byte} (he : exec i s = .next (s.skipIf (a ≠ b))) :
    ∃ t, exec i s = .next t ∧ OnlyChanges [.pc] s t ∧
      t.pc.toNat = if a = b then s.pc.toNat else (s.pc.toNat + 2) % 65536 := by
  simpa only [decide_eq_true_eq, ne_eq, ite_not] using exec_skipIf he

/-- Settles O31: 3xkk is a skip on equality, 4xkk one on difference. -/
theorem immediateSkips : Obligations.ImmediateSkips :=
  ⟨fun x kk => ⟨decode_encode (.seImm x kk), decode_encode (.sneImm x kk)⟩,
    fun _ _ _ => ⟨exec_skip_eq rfl, exec_skip_ne rfl⟩⟩

/-- Settles O32: the same two skips between registers, in the two families that test the low nibble. -/
theorem registerSkips : Obligations.RegisterSkips :=
  ⟨fun x y n => ⟨(decode_fam5 x y n).trans (decodeLow0_xyn x y n _ _),
      (decode_fam9 x y n).trans (decodeLow0_xyn x y n _ _)⟩,
    fun _ _ _ => ⟨exec_skip_eq rfl, exec_skip_ne rfl⟩⟩

/-! The parked state -/

theorem zext16_setWidth {w : Word} (h : w.toNat ≤ 0x0FFF) : zext16 (w.setWidth 12) = w := by
  apply BitVec.eq_of_toNat_eq
  rw [zext16_toNat, BitVec.toNat_setWidth, Nat.mod_eq_of_lt (by omega)]

/-- The word 0x1000 + PC is the jump to PC (R52). -/
theorem encode_jp_setWidth {w : Word} (h : w.toNat ≤ 0x0FFF) : encode (.jp (w.setWidth 12)) = 0x1000 + w := by
  apply BitVec.eq_of_toNat_eq
  rw [encode, BitVec.toNat_append, ← Nat.shiftLeft_add_eq_or_of_lt (BitVec.isLt _), BitVec.toNat_setWidth,
    Nat.mod_eq_of_lt (by omega), BitVec.toNat_add, Nat.mod_eq_of_lt (by simp; omega)]
  simp

theorem State.parked_iff (s : State) : s.parked = true ↔
    s.run = .running ∧ s.wait = false ∧ s.pc.toNat ≤ 0x0FFF ∧ s.fetch = some (0x1000 + s.pc) :=
  decide_eq_true_iff

/-- Settles O33: the word fetched is the jump to PC, and it writes PC back over the advance. -/
theorem parkedStateIsAFixedPoint : Obligations.ParkedStateIsAFixedPoint := by
  intro s hp hs
  obtain ⟨hr, hw, hpc, hf⟩ := s.parked_iff.1 hp
  rw [← encode_jp_setWidth hpc] at hf
  have hstep : step s = exec (.jp (s.pc.setWidth 12)) s.advance :=
    (State.Fetches.step_eq ⟨hr, hw, hs, hf⟩).trans (dispatchWord_ok (decode_encode _) _)
  have hjp : exec (.jp (s.pc.setWidth 12)) s.advance = .next (s.setPc (zext16 (s.pc.setWidth 12))) := rfl
  rw [hstep, hjp, zext16_setWidth hpc]
  rfl

end Sys2Proof.Machine
end

section
/-! PROOF. The register operations (41_register_ops.md R80 to R91; O34 to O40). Each is a write of V[x], or a write of
V[x] and then of VF; what is left for one of them is the value it writes. -/

namespace Sys2Proof.Machine

/-! The flags and the results as numbers -/

theorem flagByte_toNat (b : Bool) : (flagByte b).toNat = b.toNat := by
  cases b <;> rfl

theorem flagByte_decide_toNat (p : Prop) [Decidable p] : (flagByte (decide p)).toNat = if p then 1 else 0 := by
  by_cases hp : p <;> simp [flagByte, hp]

theorem carryFlag_toNat (a b : Byte) : (carryFlag a b).toNat = if a.toNat + b.toNat > 255 then 1 else 0 :=
  flagByte_decide_toNat _

theorem noBorrowFlag_toNat (a b : Byte) : (noBorrowFlag a b).toNat = if a.toNat ≥ b.toNat then 1 else 0 :=
  flagByte_decide_toNat _

/-- R89: the bit that a right shift drops is the remainder of the halving. -/
theorem shrFlag_toNat (a : Byte) : (shrFlag a).toNat = a.toNat % 2 := by
  rw [shrFlag, flagByte_toNat, BitVec.getLsbD, Nat.toNat_testBit, pow_zero, Nat.div_one]

/-- R91: the bit that a left shift drops is the carry of the doubling. -/
theorem shlFlag_toNat (a : Byte) : (shlFlag a).toNat = a.toNat / 128 := by
  have := a.isLt
  rw [shlFlag, flagByte_toNat, BitVec.getLsbD, Nat.toNat_testBit]
  omega

theorem byte_sub_toNat (a b : Byte) : (a - b).toNat = (a.toNat + 256 - b.toNat) % 256 := by
  have := b.isLt
  rw [BitVec.toNat_sub]
  omega

theorem byte_ushiftRight_one_toNat (a : Byte) : (a >>> 1).toNat = a.toNat / 2 := by
  rw [BitVec.toNat_ushiftRight, Nat.shiftRight_eq_div_pow, pow_one]

theorem byte_shiftLeft_one_toNat (a : Byte) : (a <<< 1).toNat = 2 * a.toNat % 256 := by
  rw [BitVec.toNat_shiftLeft, Nat.shiftLeft_eq, pow_one, Nat.mul_comm]

/-! The two shapes of a register operation -/

variable {i : Instr} {s : State} {x : Nibble} {b f : Byte}

theorem State.onlyChanges_setV (s : State) (x : Nibble) (b : Byte) : OnlyChanges [.v] s (s.setV x b) :=
  fun p hp => Part.Unmoved.same (by simp_all)

/-- Writing the flag after the result leaves the frame of a register write (R86). -/
theorem State.onlyChanges_setVFlag (s : State) (x : Nibble) (b f : Byte) : OnlyChanges [.v] s (s.setVFlag x b f) :=
  fun p hp => Part.Unmoved.same (by simp_all [State.setVFlag_eq])

/-- An instruction that writes `b` to V[x] (R80 to R82). -/
theorem exec_setV (he : exec i s = .next (s.setV x b)) :
    ∃ t, exec i s = .next t ∧ OnlyChanges [.v] s t ∧ ∀ r, t.getV r = if r = x then b else s.getV r :=
  ⟨_, he, s.onlyChanges_setV x b, fun r => s.getV_setV x r b⟩

/-- The same, for a byte `b` known by its bits (R83 to R85). -/
theorem exec_setV_bits {bit : Nat → Bool} (he : exec i s = .next (s.setV x b)) (hb : ∀ n, b.getLsbD n = bit n) :
    ∃ t, exec i s = .next t ∧ OnlyChanges [.v] s t ∧
      ∀ r n, (t.getV r).getLsbD n = if r = x then bit n else (s.getV r).getLsbD n := by
  obtain ⟨t, ht, hframe, hv⟩ := exec_setV he
  refine ⟨t, ht, hframe, fun r n => ?_⟩
  rw [hv, apply_ite (BitVec.getLsbD · n), hb]

/-- An instruction that writes `b` to V[x] and then the flag `f` to VF, each known by its number (R86). -/
theorem exec_setVFlag {result flag : Nat} (he : exec i s = .next (s.setVFlag x b f)) (hb : b.toNat = result)
    (hf : f.toNat = flag) :
    ∃ t, exec i s = .next t ∧ OnlyChanges [.v] s t ∧
      ∀ r, (t.getV r).toNat = if r = 0xF#4 then flag else if r = x then result else (s.getV r).toNat := by
  refine ⟨_, he, s.onlyChanges_setVFlag x b f, fun r => ?_⟩
  rw [State.getV_setVFlag, apply_ite BitVec.toNat, apply_ite BitVec.toNat, hb, hf]
  rfl

/-! The obligations -/

/-- Settles O34: a register write of the immediate. -/
theorem ldImmLoads : Obligations.LdImmLoads :=
  ⟨fun x kk => decode_encode (.ldImm x kk), fun _ _ _ => exec_setV rfl⟩

/-- Settles O35: a register write of the sum, and no second write that would set VF. -/
theorem addImmHasNoCarryFlag : Obligations.AddImmHasNoCarryFlag := by
  refine ⟨fun x kk => decode_encode (.addImm x kk), fun s x kk => ?_⟩
  obtain ⟨t, ht, hframe, hv⟩ := exec_setV (i := .addImm x kk) (s := s) rfl
  refine ⟨t, ht, hframe, fun r => ?_⟩
  rw [hv, apply_ite BitVec.toNat, BitVec.toNat_add]

/-- Settles O36: a register write of the byte of V[y]. -/
theorem ldRegCopies : Obligations.LdRegCopies :=
  ⟨fun x y => decode_encode (.ldReg x y), fun _ _ _ => exec_setV rfl⟩

/-- Settles O37: register writes of the bitwise or, and, xor. -/
theorem bitwiseOperations : Obligations.BitwiseOperations :=
  ⟨fun x y => ⟨decode_encode (.orReg x y), decode_encode (.andReg x y), decode_encode (.xorReg x y)⟩,
    fun _ _ _ => ⟨exec_setV_bits rfl fun _ => BitVec.getLsbD_or, exec_setV_bits rfl fun _ => BitVec.getLsbD_and,
      exec_setV_bits rfl fun _ => BitVec.getLsbD_xor⟩⟩

/-- Settles O38: the result is the sum modulo 256, the flag its carry. -/
theorem addRegSetsCarry : Obligations.AddRegSetsCarry :=
  ⟨fun x y => decode_encode (.addReg x y), fun _ _ _ => exec_setVFlag rfl (BitVec.toNat_add _ _) (carryFlag_toNat _ _)⟩

/-- Settles O39: the two subtractions differ in the order of their operands, in the result and in the flag alike. -/
theorem subtractionsSetNoBorrow : Obligations.SubtractionsSetNoBorrow :=
  ⟨fun x y => ⟨decode_encode (.subReg x y), decode_encode (.subnReg x y)⟩,
    fun _ _ _ => ⟨exec_setVFlag rfl (byte_sub_toNat _ _) (noBorrowFlag_toNat _ _),
      exec_setVFlag rfl (byte_sub_toNat _ _) (noBorrowFlag_toNat _ _)⟩⟩

/-- Settles O40: result and flag are the quotient and the remainder of the halving, or the doubling and its carry. -/
theorem shiftsMoveTheBitToVf : Obligations.ShiftsMoveTheBitToVf :=
  ⟨fun x y => ⟨decode_encode (.shr x y), decode_encode (.shl x y)⟩,
    fun _ _ _ => ⟨exec_setVFlag rfl (byte_ushiftRight_one_toNat _) (shrFlag_toNat _),
      exec_setVFlag rfl (byte_shiftLeft_one_toNat _) (shlFlag_toNat _)⟩⟩

end Sys2Proof.Machine
end

section
/-! PROOF. The index register operations (42_memory_ops.md R100 to R102; O41 to O43). Each writes I; ADD I writes VF as
well, under its quirk alone. -/

namespace Sys2Proof.Machine

/-! The flag and the results as numbers -/

/-- R101: the flag compares the exact sum, not the sum modulo 65536. -/
theorem indexFlag_toNat (i : Word) (b : Byte) :
    (indexFlag i b).toNat = if i.toNat + b.toNat > 0x0FFF then 1 else 0 :=
  flagByte_decide_toNat _

theorem State.i_add_getV16_toNat (s : State) (x : Nibble) :
    (s.i + s.getV16 x).toNat = (s.i.toNat + (s.getV x).toNat) % 65536 := by
  rw [BitVec.toNat_add, State.getV16_toNat]

theorem State.lowNibble_toNat (s : State) (x : Nibble) : (s.lowNibble x).toNat = (s.getV x).toNat % 16 := by
  rw [State.lowNibble, BitVec.extractLsb'_toNat, Nat.shiftRight_zero]

/-- R162 bounds FONT_BASE, so a glyph address does not wrap. -/
theorem glyphAddr_toNat (c : Config) (d : Nibble) : (glyphAddr c d).toNat = c.fontBase.val + 5 * d.toNat := by
  have hbase := c.fontBase.isLt
  have hd := d.isLt
  rw [glyphAddr, BitVec.toNat_ofNat, Nat.mod_eq_of_lt (by omega)]

/-! The frame -/

variable {i : Instr} {s t : State}

theorem OnlyChanges.mono {ps qs : List Part} (h : OnlyChanges ps s t) (hsub : ps ⊆ qs) : OnlyChanges qs s t :=
  fun p hp => h p fun hmem => hp (hsub hmem)

theorem State.onlyChanges_setI (s : State) (w : Word) : OnlyChanges [.i] s (s.setI w) :=
  fun p hp => Part.Unmoved.same (by simp_all)

/-- An instruction that writes to I a word known by its number (R100, R102). -/
theorem exec_setI {w : Word} {n : Nat} (he : exec i s = .next (s.setI w)) (hw : w.toNat = n) :
    ∃ t, exec i s = .next t ∧ OnlyChanges [.i] s t ∧ t.i.toNat = n :=
  ⟨_, he, s.onlyChanges_setI w, hw⟩

/-! The obligations -/

/-- Settles O41: a write of I with the address of its word. -/
theorem ldISetsI : Obligations.LdISetsI :=
  ⟨fun nnn => decode_encode (.ldI nnn), fun _ nnn => exec_setI rfl (zext16_toNat nnn)⟩

/-- Settles O42: the two settings of the quirk differ in the second write, of the flag to VF. -/
theorem addIFollowsTheQuirk : Obligations.AddIFollowsTheQuirk := by
  refine ⟨fun x => decode_encode (.addI x), fun s x => ?_⟩
  cases hq : s.cfg.quirkAddIVf with
  | true =>
    have he : exec (.addI x) s = .next ((s.setI (s.i + s.getV16 x)).setV vf (indexFlag s.i (s.getV x))) :=
      execAddI_quirk s x hq
    refine ⟨_, he, (exec_onlyChanges rfl he).mono (by simp [writesParts]), s.i_add_getV16_toNat x, fun r => ?_⟩
    rw [State.getV_setV, apply_ite BitVec.toNat, indexFlag_toNat]
    simp [vf]
  | false =>
    have he : exec (.addI x) s = .next (s.setI (s.i + s.getV16 x)) := execAddI_plain s x hq
    exact ⟨_, he, (s.onlyChanges_setI _).mono (by simp), s.i_add_getV16_toNat x, fun r => by simp⟩

/-- Settles O43: a write of I with the glyph address of the low nibble. -/
theorem ldFPointsAtTheGlyph : Obligations.LdFPointsAtTheGlyph := by
  refine ⟨fun x => decode_encode (.ldF x), fun s x => exec_setI rfl ?_⟩
  rw [glyphAddr_toNat, State.lowNibble_toNat]

end Sys2Proof.Machine
end

section
/-! PROOF. The display beyond one draw (43_display.md R112 to R114; O47, O49, O50): the cleared screen, the draw that
undoes a draw, and the rectangle of a clipped draw. -/

namespace Sys2Proof.Machine

variable {s t : State} {x y n : Nibble} {py : Fin 32} {px : Fin 64}

theorem State.pixel_setFb_off (s : State) (py : Fin 32) (px : Fin 64) :
    (s.setFb (Vector.replicate 32 0)).pixel py px = false := by
  simp [State.pixel]

theorem flagByte_eq_one_iff (b : Bool) : flagByte b = 1 ↔ b = true := by
  cases b <;> decide

/-! What a draw does, by the pixels that `State.toggles` describes -/

theorem exec_drw_pixel_of_toggles (hc : executeCause (.drw x y n) s = .none) (he : exec (.drw x y n) s = .next t)
    (ht : s.toggles x y n py px) : t.pixel py px = !s.pixel py px := by
  rw [exec_drw_pixel hc he, decide_eq_true ((s.mem_drawPixels x y n py px).2 ht), Bool.xor_true]

/-- A draw, one that faults included, leaves the other pixels alone (R113, R146). -/
theorem exec_drw_pixel_of_not_toggles (he : exec (.drw x y n) s = .next t) (ht : ¬ s.toggles x y n py px) :
    t.pixel py px = s.pixel py px := by
  cases hb : s.blockFaults s.i.toNat n.toNat with
  | true => cases (execDrw_fault s x y n hb).symm.trans he; rfl
  | false =>
    rw [exec_drw_pixel ((executeCause_drw_iff x y n).2 hb) he,
      decide_eq_false (mt (s.mem_drawPixels x y n py px).1 ht), Bool.xor_false]

theorem exec_drw_vf_eq_one_iff (hc : executeCause (.drw x y n) s = .none) (he : exec (.drw x y n) s = .next t) :
    t.getV vf = 1 ↔ ∃ py px, s.toggles x y n py px ∧ s.pixel py px = true := by
  rw [exec_drw_vf hc he, flagByte_eq_one_iff, State.any_drawPixels]

/-! On what the sprite of a draw depends (R114 (2)) -/

theorem State.toggles_congr (hx : t.getV x = s.getV x) (hy : t.getV y = s.getV y) (hi : t.i = s.i)
    (hm : ∀ a, t.memRead a = s.memRead a) (hc : t.cfg = s.cfg) :
    t.toggles x y n py px ↔ s.toggles x y n py px := by
  simp only [State.toggles, hx, hy, hi, hm, hc]

theorem State.blockFaults_congr (hc : t.cfg = s.cfg) (a k : Nat) : t.blockFaults a k = s.blockFaults a k := by
  rw [State.blockFaults, hc, ← State.blockFaults]

theorem executeCause_drw_congr (hi : t.i = s.i) (hc : t.cfg = s.cfg) :
    executeCause (.drw x y n) t = executeCause (.drw x y n) s := by
  rw [executeCause, State.blockFaults_congr hc, hi, ← executeCause]

/-- With clipping, a sprite bit lands in the eight columns and the `n` rows from the start position (R113, R114 (4)). -/
theorem State.toggles_clipped_bounds (hw : s.cfg.quirkDrawWrap = false) (ht : s.toggles x y n py px) :
    (s.getV x).toNat % 64 ≤ px.val ∧ px.val < (s.getV x).toNat % 64 + 8 ∧
    (s.getV y).toNat % 32 ≤ py.val ∧ py.val < (s.getV y).toNat % 32 + n.toNat := by
  obtain ⟨r, c, hr, hcol, -, hland⟩ := ht
  obtain ⟨hpx, hpy⟩ : (s.getV x).toNat % 64 + c = px.val ∧ (s.getV y).toNat % 32 + r = py.val := by
    simpa only [hw, Bool.false_eq_true, if_false] using hland
  omega

/-! The obligations -/

/-- Settles O47: a write of the blank frame, with the frame of O21. -/
theorem clsClearsTheScreen : Obligations.ClsClearsTheScreen :=
  ⟨decode_encode .cls, fun s => ⟨_, rfl, exec_onlyChanges (i := .cls) rfl rfl, s.pixel_setFb_off⟩⟩

/-- Settles O49: both draws toggle the same pixels, so a pixel is inverted twice or not at all, and a toggled pixel is
on before the second draw exactly when it was off before the first. -/
theorem drawingTwiceRestoresTheScreen : Obligations.DrawingTwiceRestoresTheScreen := by
  intro s t s' u x y n hc he hfb hx hy hi hcfg hm he'
  have hc' : executeCause (.drw x y n) s' = .none := (executeCause_drw_congr hi hcfg).trans hc
  have htoggles : ∀ py px, s'.toggles x y n py px ↔ s.toggles x y n py px :=
    fun _ _ => State.toggles_congr hx hy hi hm hcfg
  have hscreen : ∀ py px, s'.pixel py px = t.pixel py px := fun _ _ => by simp only [State.pixel, hfb]
  have hinverted : ∀ py px, s.toggles x y n py px → s'.pixel py px = !s.pixel py px :=
    fun py px ht => (hscreen py px).trans (exec_drw_pixel_of_toggles hc he ht)
  refine ⟨fun py px => ?_, ?_⟩
  · by_cases ht : s.toggles x y n py px
    · rw [exec_drw_pixel_of_toggles hc' he' ((htoggles py px).2 ht), hinverted py px ht, Bool.not_not]
    · rw [exec_drw_pixel_of_not_toggles he' (mt (htoggles py px).1 ht), hscreen, exec_drw_pixel_of_not_toggles he ht]
  · refine (exec_drw_vf_eq_one_iff hc' he').trans (exists_congr fun py => exists_congr fun px => ?_)
    rw [htoggles]
    exact and_congr_right fun ht => by rw [hinverted py px ht, Bool.not_eq_true']

/-- Settles O50: a pixel that changes is one of the sprite, and those of a clipped sprite are in its rectangle. -/
theorem clippedDrawStaysInItsRectangle : Obligations.ClippedDrawStaysInItsRectangle := by
  intro s t x y n hw he py px hchanged
  by_cases ht : s.toggles x y n py px
  · exact State.toggles_clipped_bounds hw ht
  · exact absurd (exec_drw_pixel_of_not_toggles he ht) hchanged

end Sys2Proof.Machine
end

section
/-! PROOF. The keypad (44_input.md R120 to R124, R126, 70_reset_and_hazards.md R166; O51 to O54, O56): the two key
events, the skips on a key, and the beginning and the end of a key wait. -/

namespace Sys2Proof.Machine

variable {o : Op} {p : Part} {s t : State}

/-! The key events move the keypad and the latch only -/

@[simp] theorem Part.unmoved_setKey (hp : p ≠ .keys) (k : Nibble) : p.Unmoved s (t.setKey k) ↔ p.Unmoved s t := by
  cases p <;> simp_all [Part.Unmoved]

@[simp] theorem Part.unmoved_clearKey (hp : p ≠ .keys) (k : Nibble) :
    p.Unmoved s (t.clearKey k) ↔ p.Unmoved s t := by
  cases p <;> simp_all [Part.Unmoved]

@[simp] theorem Part.unmoved_latchKey (hp : p ≠ .waiting) (k : Nibble) :
    p.Unmoved s (t.latchKey k) ↔ p.Unmoved s t := by
  cases p <;> simp_all [Part.Unmoved]

/-! What each operation does, case by case -/

theorem keyPress_unloaded (hr : s.run = .unloaded) (k : Nibble) : keyPress k s = s := if_pos hr

/-- The first press of a wait is latched (R120). -/
theorem keyPress_latches (hr : s.run ≠ .unloaded) (h : s.wait = true ∧ s.kevt = false) (k : Nibble) :
    keyPress k s = (s.setKey k).latchKey k := by
  simp [keyPress, hr, h]

/-- Without a wait, or after its first press, a press sets its flag only (R120). -/
theorem keyPress_not_latched (hr : s.run ≠ .unloaded) (h : ¬ (s.wait = true ∧ s.kevt = false)) (k : Nibble) :
    keyPress k s = s.setKey k := by
  simp only [keyPress, if_neg hr, Bool.and_eq_true, Bool.not_eq_true', if_neg h]

theorem keyRelease_unloaded (hr : s.run = .unloaded) (k : Nibble) : keyRelease k s = s := if_pos hr

theorem keyRelease_loaded (hr : s.run ≠ .unloaded) (k : Nibble) : keyRelease k s = s.clearKey k := if_neg hr

/-- The argument of a Step is put in place for it and taken away after it (R5). -/
theorem perform_step_eq_next {r : Byte} (he : perform (.step r) s = .next t) :
    ∃ u, coreStep (s.setRndArg (some r)) = .next u ∧ t = u.setRndArg none := by
  rw [perform] at he
  cases hc : coreStep (s.setRndArg (some r)) with
  | next u => rw [hc] at he; cases he; exact ⟨u, rfl, rfl⟩
  | fault e => rw [hc] at he; cases he
  | refused e => rw [hc] at he; cases he

/-! The key wait (R126) -/

/-- What an operation does to WAIT and KEVT: nothing, a successful Reset (R160), the latch of a press (R120), the
resumption of a latched wait (R125), or the beginning of a wait (R124). -/
theorem perform_wait (he : perform o s = .next t) :
    (t.wait = s.wait ∧ t.kevt = s.kevt) ∨
    (∃ rom, o = .reset rom ∧ rom.length ≤ 3584 ∧ t.wait = false ∧ t.kevt = false) ∨
    (∃ k, o = .keyPress k ∧ s.wait = true ∧ t.wait = true ∧ t.kcode = k) ∨
    (∃ r, o = .step r ∧ s.kevt = true ∧ t.wait = false ∧ t.kevt = false) ∨
    (∃ r op x, o = .step r ∧ s.fetch = some op ∧ decode op = .ok (.ldVxK x) ∧
      t.wait = true ∧ t.kevt = false ∧ t.waitReg = x ∧ t.pc = s.pc) := by
  cases o with
  | reset rom =>
    cases he
    by_cases hlen : rom.length ≤ 3584
    · right; left
      rw [resetOp_of_fits s ((romFits_iff rom).2 hlen)]
      exact ⟨rom, rfl, hlen, by simp, by simp⟩
    · left; simp [resetOp_of_overlong hlen]
  | step r =>
    obtain ⟨u, hu, rfl⟩ := perform_step_eq_next he
    rcases coreStep_wait _ u hu with hsame | ⟨hk, -, hw', hk'⟩ | ⟨-, op, x, hf, hd, rfl⟩
    · exact .inl hsame
    · right; right; right; left; exact ⟨r, rfl, hk, hw', hk'⟩
    · right; right; right; right; exact ⟨r, op, x, rfl, hf, hd, rfl, rfl, rfl, by simp⟩
  | tick => cases he; left; unfold tick; split <;> simp
  | keyPress k =>
    cases he
    by_cases hr : s.run = .unloaded
    · left; simp [keyPress_unloaded hr]
    · by_cases h : s.wait = true ∧ s.kevt = false
      · right; right; left; simp [keyPress_latches hr h, h]
      · left; simp [keyPress_not_latched hr h]
  | keyRelease k => cases he; left; unfold keyRelease; split <;> simp

/-- Settles O56: the cases of `perform_wait`, of which each clause meets the ones that it names and no other. -/
theorem onlyAKeyPressLiftsTheHold : Obligations.OnlyAKeyPressLiftsTheHold := by
  intro o s t _ he
  rcases perform_wait he with ⟨hw, hk⟩ | ⟨rom, rfl, hlen, hw, hk⟩ | ⟨k, rfl, hws, hw, hcode⟩ |
    ⟨r, rfl, hks, hw, hk⟩ | ⟨r, op, x, rfl, hf, hd, hw, hk, hreg, hpc⟩
  · exact ⟨by simp +contextual [hw], by simp +contextual [hk], by simp +contextual [hw]⟩
  · exact ⟨fun _ _ => .inl ⟨rom, rfl, hlen⟩, by simp [hk], by simp [hw]⟩
  · exact ⟨by simp [hw], fun _ _ => ⟨hws, k, rfl, hcode⟩, by simp [hws]⟩
  · exact ⟨fun _ _ => .inr ⟨⟨r, rfl⟩, hks⟩, by simp [hk], by simp [hw]⟩
  · exact ⟨by simp [hw], by simp [hk], fun _ _ => ⟨hk, ⟨r, rfl⟩, op, x, hf, hd, hreg, hpc⟩⟩

/-! The obligations on one operation or instruction -/

/-- Settles O51: refused while UNLOADED, latched or not otherwise. -/
theorem keyPressLatchesTheFirst : Obligations.KeyPressLatchesTheFirst := by
  refine fun s k => ⟨fun hr => ⟨congrArg _ (keyPress_unloaded hr k), if_pos hr⟩, fun hr => ?_⟩
  refine ⟨keyPress k s, rfl, if_neg hr, ?_⟩
  by_cases h : s.wait = true ∧ s.kevt = false
  · rw [keyPress_latches hr h]
    exact ⟨fun _ hp => Part.Unmoved.same (by simp_all), s.keyDown_setKey k, rfl, rfl, fun _ => ⟨rfl, rfl⟩, absurd h⟩
  · rw [keyPress_not_latched hr h]
    exact ⟨fun _ hp => Part.Unmoved.same (by simp_all), s.keyDown_setKey k, rfl, rfl, fun h' => absurd h' h,
      fun _ => ⟨rfl, rfl⟩⟩

/-- Settles O52: refused while UNLOADED, else the flag of the key is cleared. -/
theorem keyReleaseOnlyClearsTheFlag : Obligations.KeyReleaseOnlyClearsTheFlag := by
  refine fun s k => ⟨fun hr => ⟨congrArg _ (keyRelease_unloaded hr k), if_pos hr⟩, fun hr => ?_⟩
  exact ⟨s.clearKey k, congrArg _ (keyRelease_loaded hr k), if_neg hr,
    fun _ hp => Part.Unmoved.same (by simp_all), s.keyDown_clearKey k⟩

/-- Settles O53: two conditional skips, on the key of the low nibble. -/
theorem keySkipsReadTheLevel : Obligations.KeySkipsReadTheLevel := by
  refine ⟨fun x => ⟨decode_encode (.skp x), decode_encode (.sknp x)⟩, fun s x k hk => ?_⟩
  obtain rfl : k = s.lowNibble x := BitVec.eq_of_toNat_eq (hk.trans (s.lowNibble_toNat x).symm)
  have hsknp : ∃ t, exec (.sknp x) s = .next t ∧ OnlyChanges [.pc] s t ∧
      t.pc.toNat = if (!s.keyDown (s.lowNibble x)) then (s.pc.toNat + 2) % 65536 else s.pc.toNat := exec_skipIf rfl
  exact ⟨exec_skipIf rfl, by simpa only [Bool.not_eq_true', ← Bool.not_eq_true, ite_not] using hsknp⟩

/-- Settles O54: Fx0A is the entry of the suspension, with the frame of O21. -/
theorem waitForKeySuspends : Obligations.WaitForKeySuspends :=
  ⟨fun x => decode_encode (.ldVxK x),
    fun _ x => ⟨_, rfl, exec_onlyChanges (i := .ldVxK x) rfl rfl, rfl, rfl, rfl, rfl, rfl⟩⟩

end Sys2Proof.Machine
end

section
/-! PROOF. The timers (45_timers.md R132 to R136; O57 to O59): the moves, one Tick, and many. Ticks that stand first in
the schedule are iterations of `tick`, and those have a closed form. -/

namespace Sys2Proof.Machine

variable {p : Part} {s t : State}

/-! One Tick -/

theorem State.snd_eq_true_iff (s : State) : s.snd = true ↔ s.st ≠ 0 := bne_iff_ne

theorem tick_unloaded (hr : s.run = .unloaded) : tick s = s := if_pos hr

/-- A Tick neither reads nor writes the schedule. -/
theorem tick_setSchedule (s : State) (l : List Op) : tick (s.setSchedule l) = (tick s).setSchedule l := by
  by_cases hr : s.run = .unloaded
  · rw [tick_unloaded hr, tick_unloaded (s := s.setSchedule l) hr]
  · rw [tick_loaded hr, tick_loaded (s := s.setSchedule l) hr]
    rfl

theorem core_step_tick_cons (s : State) (rest : List Op) :
    Sys2Proof.core.step (s.setSchedule (.tick :: rest)) = .next ((tick s).setSchedule rest) :=
  (step_cons (s := s.setSchedule (.tick :: rest)) rfl).trans (congrArg Host.Outcome.next (tick_setSchedule s rest))

/-! Many Ticks -/

/-- R136: the decrement stops at 0. -/
theorem countDown_iterate_toNat (v : Nat) (b : Byte) : (countDown^[v] b).toNat = b.toNat - v := by
  induction v with
  | zero => rfl
  | succ v ih => rw [Function.iterate_succ_apply', countDown_toNat, ih, Nat.sub_sub]

/-- The timers count down side by side: a Tick leaves RUN, its one condition, as it is. -/
theorem tick_iterate_loaded (hr : s.run ≠ .unloaded) (v : Nat) :
    tick^[v] s = (s.setDt (countDown^[v] s.dt)).setSt (countDown^[v] s.st) := by
  induction v with
  | zero => rfl
  | succ v ih =>
    rw [Function.iterate_succ_apply', ih, tick_loaded (by simpa using hr), Function.iterate_succ_apply',
      Function.iterate_succ_apply']
    rfl

theorem run_succ_of_step {M : Host.Core} {s t : M.State} (h : M.step s = .next t) (k : Nat) :
    M.run (k + 1) s = M.run k t := by
  rw [Host.Core.run, h]

/-- Ticks that stand first in the schedule are taken from it one by one (log 3). -/
theorem core_run_ticks (v : Nat) (s : State) (rest : List Op) :
    Sys2Proof.core.run v (s.setSchedule (List.replicate v .tick ++ rest)) = .next ((tick^[v] s).setSchedule rest) := by
  induction v generalizing s with
  | zero => rfl
  | succ v ih => exact (run_succ_of_step (core_step_tick_cons s _) v).trans (ih (tick s))

@[simp] theorem Part.unmoved_setSchedule (hp : p ≠ .env) (l : List Op) :
    p.Unmoved s (t.setSchedule l) ↔ p.Unmoved s t := by
  cases p <;> simp_all [Part.Unmoved]

/-! The obligations -/

/-- Settles O57: a write of V[x], of DT, and of ST, from which SND is read. -/
theorem timerMoves : Obligations.TimerMoves :=
  ⟨fun x => ⟨decode_encode (.ldVxDt x), decode_encode (.ldDtVx x), decode_encode (.ldStVx x)⟩,
    fun s x => ⟨exec_setV rfl, ⟨_, rfl, exec_onlyChanges (i := .ldDtVx x) rfl rfl, rfl⟩,
      ⟨_, rfl, exec_onlyChanges (i := .ldStVx x) rfl rfl, rfl, (s.setSt (s.getV x)).snd_eq_true_iff⟩⟩⟩

/-- Settles O58: refused while UNLOADED, else a decrement of each timer. -/
theorem tickCountsDown : Obligations.TickCountsDown := by
  refine fun s => ⟨fun hr => ⟨congrArg _ (tick_unloaded hr), if_pos hr⟩, fun hr => ?_⟩
  exact ⟨_, congrArg Host.Outcome.next (tick_loaded hr), if_neg hr, fun _ hp => Part.Unmoved.same (by simp_all),
    countDown_toNat s.dt, countDown_toNat s.st⟩

/-- Settles O59: the run is the iterated Tick with the schedule used up, and its closed form gives the rest. -/
theorem manyTicksReachZeroAndStay : Obligations.ManyTicksReachZeroAndStay := by
  intro v s hr
  have hrun := core_run_ticks v s []
  rw [List.append_nil, tick_iterate_loaded hr] at hrun
  exact ⟨_, hrun, countDown_iterate_toNat v s.dt, countDown_iterate_toNat v s.st, rfl,
    fun _ hp => Part.Unmoved.same (by simp_all)⟩

end Sys2Proof.Machine
end

section
/-! PROOF. The random byte (46_random.md R138; O60): the schedule's argument when there is one, else a free value. -/

namespace Sys2Proof.Machine

variable {s : State}

theorem State.rndByte_of_some {b : Byte} (h : s.env.rndArg = some b) : s.rndByte = b := by
  rw [State.rndByte, h, Option.getD_some]

theorem State.rndByte_of_none (h : s.env.rndArg = none) : s.rndByte = Config.freeRnd s.env.draws := by
  rw [State.rndByte, h, Option.getD_none]

/-- The draw that precedes the write moves no register. -/
theorem State.getV_drawn_setV (s : State) (x r : Nibble) (b : Byte) :
    (s.drawn.setV x b).getV r = if r = x then b else s.getV r := by
  rw [State.getV_setV, State.drawn_getV]

/-- Settles O60: a write of V[x] with the frame of O21, and `rndByte` read in its two cases. -/
theorem rndMasksTheRandomByte : Obligations.RndMasksTheRandomByte := by
  refine ⟨fun x kk => decode_encode (.rnd x kk), fun s x kk => ?_⟩
  refine ⟨_, rfl, exec_onlyChanges (i := .rnd x kk) rfl rfl, fun b hb r => ?_, fun hnone r => ?_⟩
  · rw [State.getV_drawn_setV, State.rndByte_of_some hb]
  · rw [State.getV_drawn_setV, State.rndByte_of_none hnone]

end Sys2Proof.Machine
end

section
/-! PROOF. Faults by their stage, the HALTED state, and what Reset does to it (00_scope.md R4, 60_exceptions.md R140,
R145 to R148, 70_reset_and_hazards.md R160, R161, R164; O8, O9, O12, O13, O16, O17). -/

namespace Sys2Proof.Machine

variable {o : Op} {s t : State} {rom : List Byte}

/-! The fault of a cycle -/

/-- A fetch that faults is taken before the advance of PC (R146). -/
theorem cycle_of_fetch_none (h : s.fetch = none) : cycle s = .next (s.takeFault .addressFault s.pc 0) := by
  simp only [cycle, h]

/-- Fault entry is a precise halt (R146). -/
theorem State.haltedBy_takeFault (s : State) (c : FaultCode) (a op : Word) :
    HaltedBy c a op s (s.takeFault c a op) :=
  ⟨rfl, rfl, rfl, rfl, fun _ hp => Part.Unmoved.same (by simp_all)⟩

/-- Settles O8: by O5 the fetch faults, and the fault is taken with PC in place. -/
theorem faultingFetchLeavesPc : Obligations.FaultingFetchLeavesPc := by
  intro s hr hw hs hf hpc
  obtain ⟨-, hfetch⟩ := fetchReadsTwoBytesBigEndian s
  have hstep : step s = .next (s.takeFault .addressFault s.pc 0) := by
    rw [step_nil hs, coreStep_not_waiting hr hw, cycle_of_fetch_none (hfetch ⟨hf, hpc⟩)]
  exact ⟨_, hstep, s.haltedBy_takeFault _ _ _⟩

/-- Settles O12: a cycle takes the fault of `cycleCause`, or there is none and the fault registers stay. -/
theorem faultOrderIsFetchDecodeExecute : Obligations.FaultOrderIsFetchDecodeExecute := by
  intro s t hr hw hs he
  rw [step_nil hs, coreStep_not_waiting hr hw] at he
  rcases cycle_effect s with ⟨hc, u, op, hcycle, -⟩ | ⟨hc, u, hcycle, hrun, hfcode, -⟩ <;>
    cases hcycle.symm.trans he
  · exact ⟨fun _ => ⟨rfl, rfl⟩, fun hnone => absurd hnone hc⟩
  · exact ⟨absurd hc, fun _ => ⟨hrun.trans hr, hfcode⟩⟩

/-! Reset, by the length of the ROM (R160, R161) -/

theorem perform_reset_of_fits (s : State) (h : rom.length ≤ 3584) :
    perform (.reset rom) s = .next (s.cleared.writeBytes romBase rom) :=
  congrArg Host.Outcome.next (resetOp_of_fits s ((romFits_iff rom).2 h))

theorem perform_reset_of_overlong (s : State) (h : ¬ rom.length ≤ 3584) : perform (.reset rom) s = .next s :=
  congrArg Host.Outcome.next (resetOp_of_overlong h)

/-- Settles O16: the ROM does not fit. -/
theorem overlongRomChangesNothing : Obligations.OverlongRomChangesNothing := by
  intro s rom hlen
  have hlong : ¬ rom.length ≤ 3584 := Nat.not_le.2 hlen
  exact ⟨perform_reset_of_overlong s hlong, if_neg (mt (romFits_iff rom).1 hlong)⟩

/-- The cleared state holds nothing of the old one but the parameters and the environment (log 14). -/
theorem State.cleared_congr (hcfg : s.cfg = t.cfg) (henv : s.env = t.env) : s.cleared = t.cleared := by
  rw [State.cleared, State.cleared, hcfg, henv]

/-- Settles O17: the ROM is written over the same cleared state. -/
theorem nothingSurvivesReset : Obligations.NothingSurvivesReset := by
  intro s t rom hlen hcfg henv
  rw [perform_reset_of_fits s hlen, perform_reset_of_fits t hlen, State.cleared_congr hcfg henv]

/-! Operations other than Reset leave HALTED as it is (R147) -/

theorem OnlyChanges.run_eq {ps : List Part} (h : OnlyChanges ps s t) (hp : Part.faults ∉ ps) : t.run = s.run := by
  obtain ⟨hrun, -⟩ := h .faults hp
  exact hrun

theorem not_unloaded_of_halted (hr : s.run = .halted) : s.run ≠ .unloaded := by simp [hr]

/-- A halted CORE counts its timers down as a running one does (R147; O58). -/
theorem perform_tick_halted (hr : s.run = .halted) :
    ∃ t, perform .tick s = .next t ∧ OnlyChanges [.dt, .st] s t ∧
      t.dt.toNat = s.dt.toNat - 1 ∧ t.st.toNat = s.st.toNat - 1 := by
  obtain ⟨-, htick⟩ := tickCountsDown s
  obtain ⟨t, he, -, hframe⟩ := htick (not_unloaded_of_halted hr)
  exact ⟨t, he, hframe⟩

/-- The flag of the key is set, and CORE stays halted (R147; O51). -/
theorem perform_keyPress_halted (hr : s.run = .halted) (k : Nibble) :
    ∃ t, perform (.keyPress k) s = .next t ∧ t.keyDown k = true ∧ t.run = .halted := by
  obtain ⟨-, hpress⟩ := keyPressLatchesTheFirst s k
  obtain ⟨t, he, -, hframe, hkey, -⟩ := hpress (not_unloaded_of_halted hr)
  exact ⟨t, he, by simp [hkey], (hframe.run_eq (by decide)).trans hr⟩

/-- The flag of the key is cleared, and CORE stays halted (R147; O52). -/
theorem perform_keyRelease_halted (hr : s.run = .halted) (k : Nibble) :
    ∃ t, perform (.keyRelease k) s = .next t ∧ t.keyDown k = false ∧ t.run = .halted := by
  obtain ⟨-, hrelease⟩ := keyReleaseOnlyClearsTheFlag s k
  obtain ⟨t, he, -, hframe, hkey⟩ := hrelease (not_unloaded_of_halted hr)
  exact ⟨t, he, by simp [hkey], (hframe.run_eq (by decide)).trans hr⟩

/-- Only a Reset whose ROM fits takes CORE out of HALTED (R147, R161, R164). -/
theorem perform_leaves_halted (hr : s.run = .halted) (he : perform o s = .next t) (ht : t.run ≠ .halted) :
    ∃ rom, o = .reset rom ∧ rom.length ≤ 3584 := by
  cases o with
  | reset rom =>
    refine ⟨rom, rfl, ?_⟩
    by_contra hlong
    cases (perform_reset_of_overlong s hlong).symm.trans he
    exact ht hr
  | step r =>
    obtain ⟨u, hu, rfl⟩ := perform_step_eq_next he
    cases (coreStep_halted (s := s.setRndArg (some r)) hr).symm.trans hu
    exact absurd hr ht
  | tick =>
    obtain ⟨u, hu, hframe, -⟩ := perform_tick_halted hr
    cases hu.symm.trans he
    exact absurd ((hframe.run_eq (by decide)).trans hr) ht
  | keyPress k =>
    obtain ⟨u, hu, -, hrun⟩ := perform_keyPress_halted hr k
    cases hu.symm.trans he
    exact absurd hrun ht
  | keyRelease k =>
    obtain ⟨u, hu, -, hrun⟩ := perform_keyRelease_halted hr k
    cases hu.symm.trans he
    exact absurd hrun ht

/-- Settles O13: each operation at a halted CORE, and the registers of the cleared state. -/
theorem haltedIsStickyUntilReset : Obligations.HaltedIsStickyUntilReset := fun s hr =>
  ⟨⟨coreStep_halted hr, fun _ => stepReply_halted hr⟩, perform_tick_halted hr, perform_keyPress_halted hr,
    perform_keyRelease_halted hr, fun _ _ => perform_leaves_halted hr,
    fun _ hlen => ⟨_, perform_reset_of_fits s hlen, by simp⟩⟩

/-! Every operation answers a next state with the same parameters (R4, R59) -/

theorem cycle_next (s : State) : ∃ t, cycle s = .next t ∧ t.cfg = s.cfg := by
  rcases cycle_effect s with ⟨-, u, op, hcycle, hu⟩ | ⟨-, u, hcycle, -, -, -, -, hcfg, -⟩
  · refine ⟨_, hcycle, ?_⟩
    rcases hu with ⟨-, rfl, -⟩ | ⟨-, rfl⟩ | ⟨-, -, -, -, -, rfl⟩ <;> rfl
  · exact ⟨u, hcycle, hcfg⟩

theorem resumeWait_cfg (s : State) : (resumeWait s).cfg = s.cfg := by
  unfold resumeWait
  split <;> simp

theorem coreStep_next (s : State) : ∃ t, coreStep s = .next t ∧ t.cfg = s.cfg := by
  cases hr : s.run with
  | unloaded => exact ⟨s, coreStep_unloaded hr, rfl⟩
  | halted => exact ⟨s, coreStep_halted hr, rfl⟩
  | running =>
    cases hw : s.wait with
    | true => exact ⟨_, coreStep_waiting hr hw, resumeWait_cfg s⟩
    | false => rw [coreStep_not_waiting hr hw]; exact cycle_next s

theorem resetOp_cfg (rom : List Byte) (s : State) : (resetOp rom s).cfg = s.cfg := by
  unfold resetOp
  split <;> simp

theorem tick_cfg (s : State) : (tick s).cfg = s.cfg := by
  unfold tick
  split <;> simp

theorem keyPress_cfg (k : Nibble) (s : State) : (keyPress k s).cfg = s.cfg := by
  by_cases hr : s.run = .unloaded
  · rw [keyPress_unloaded hr]
  · by_cases h : s.wait = true ∧ s.kevt = false
    · simp [keyPress_latches hr h]
    · simp [keyPress_not_latched hr h]

theorem keyRelease_cfg (k : Nibble) (s : State) : (keyRelease k s).cfg = s.cfg := by
  unfold keyRelease
  split <;> simp

theorem perform_next (o : Op) (s : State) : ∃ t, perform o s = .next t ∧ t.cfg = s.cfg := by
  cases o with
  | reset rom => exact ⟨_, rfl, resetOp_cfg rom s⟩
  | step r =>
    obtain ⟨u, hu, hcfg⟩ := coreStep_next (s.setRndArg (some r))
    exact ⟨u.setRndArg none, by rw [perform, hu]; rfl, hcfg⟩
  | tick => exact ⟨_, rfl, tick_cfg s⟩
  | keyPress k => exact ⟨_, rfl, keyPress_cfg k s⟩
  | keyRelease k => exact ⟨_, rfl, keyRelease_cfg k s⟩

/-- Settles O9: a Step with nothing scheduled, else the oldest operation of the schedule. -/
theorem everyOperationAnswersNext : Obligations.EveryOperationAnswersNext := by
  intro s
  cases hs : s.env.schedule with
  | nil => rw [step_nil hs]; exact coreStep_next s
  | cons o rest => rw [step_cons hs]; exact perform_next o (s.setSchedule rest)

end Sys2Proof.Machine
end
